-- ==== Sys2Proof/Word.lean ====
section
/-! DEFINITION. The word types of the ChipC-8 CORE (00_scope.md R9, R11). -/

namespace Sys2Proof

/-- A byte: a general register, a memory byte, an 8-bit immediate. -/
abbrev Byte := BitVec 8

/-- A 12-bit address: `pc`, `I`, a stack entry, the field `nnn`. -/
abbrev Addr := BitVec 12

/-- An instruction word (R100). -/
abbrev Word := BitVec 16

/-- A 4-bit register index (R30, R101). -/
abbrev Reg := BitVec 4

/-- A 4-bit immediate: the field `n` (R101). -/
abbrev Nibble := BitVec 4

/-- `VF`, the flag register (R31). -/
abbrev VF : Reg := 0xF#4

end Sys2Proof
end

