-- ==== Sys2Proof/Config.lean ====
section
/-! DEFINITION. What is fixed for one machine: the configuration (00_scope.md R8), the OPEN parameters of the spec as plain
data (R10, 46_chip8e.md R339), and the free constants, which have no body. -/

namespace Sys2Proof

/-- The compatibility profile (R3, R8). -/
inductive Profile
  | vip
  | sChip
  deriving DecidableEq, Repr

/-- What happens to sprite pixels outside the effective grid (R8, R263, R264). -/
inductive SpriteMode
  | clip
  | wrap
  deriving DecidableEq, Repr

/-- One OPEN CHIP-8E encoding `C8E_ENC_<op> = (match, mask)` (R106, R331). -/
structure C8ERow where
  pat  : Word
  mask : Word
  deriving DecidableEq, Repr

/-- `C8E_SKIP_REL`, an OPEN relation on the integers (R333). -/
inductive C8ERel
  | lt
  | le
  | gt
  | ge
  deriving DecidableEq, Repr

/-- `C8E_MUL_VF_HALF` (R334): which half of the product `VF` receives. -/
inductive C8EMulHalf
  | high
  | low
  deriving DecidableEq, Repr

/-- `C8E_DIV_RESULT` (R335): what `V[x]` and `VF` receive. -/
inductive C8EDivResult
  | quotRem
  | remQuot
  deriving DecidableEq, Repr

/-- `C8E_BCD_SOURCE` (R336): the three readings the spec names, and any other function of `V`, `x`, `y`
(log 13). -/
inductive C8EBcdSource
  | vxVy
  | vyVx
  | vxNext
  | other
  deriving DecidableEq, Repr

/-- `C8E_ASCII_RESULT` (R337): no further register effect, or one on the general registers (log 14). -/
inductive C8EAsciiResult
  | nothing
  | registers
  deriving DecidableEq, Repr

/-- The semantics of `C8E_OP6` (R338): the reading the spec calls likely, or another one (log 15). -/
inductive C8EOp6Meaning
  | signedSkip (rel : C8ERel)
  | other
  deriving DecidableEq, Repr

/-- `C8E_OP6 = (C8E_ENC_OP6, semantics)` (R338). -/
structure C8EOp6 where
  enc     : C8ERow
  meaning : C8EOp6Meaning
  deriving DecidableEq, Repr

/-- What an unidentified sixth operation may do: give new general registers and a new `I`, and skip (log 15). -/
structure C8EOp6Effect where
  v    : Vector Byte 16
  i    : Addr
  skip : Bool
  deriving DecidableEq, Repr, Inhabited

/-- The parameters a machine with CHIP-8E supplies (R339). -/
structure C8E where
  encSks        : C8ERow
  encMul        : C8ERow
  encDiv        : C8ERow
  encBcd16      : C8ERow
  encAscii      : C8ERow
  skipRel       : C8ERel
  mulVfHalf     : C8EMulHalf
  divResult     : C8EDivResult
  bcdSource     : C8EBcdSource
  asciiPatBase  : Nat
  asciiIdxBase  : Nat
  asciiScratch  : Nat
  asciiRows     : Nat
  asciiPatterns : List Byte
  asciiIndex    : List Byte
  asciiResult   : C8EAsciiResult
  op6           : Option C8EOp6
  fontHiExt     : List Byte
  deriving DecidableEq, Repr

/-- The configuration (R8, R47) and the parameters of R10. `c8e = none` is `C8E_ENABLED = false`. -/
structure Config where
  profile        : Profile
  spriteMode     : SpriteMode
  soundEnable    : Bool
  soundThreshold : Nat
  tickUs         : Nat
  fontLoBase     : Nat
  fontHiBase     : Nat
  fontLo         : List Byte
  fontHi         : List Byte
  c8e            : Option C8E
  deriving DecidableEq, Repr

/-- The random byte of the draw with this number (R202, D22): a free value under no law (log 4). -/
opaque Config.freeByte : Nat → Byte

/-- The unspecified pixel `(x, y)` after the 00E0 with this draw number (R269, D16): a free value (log 5). -/
opaque Config.freePixel : Nat → Nat → Nat → Bool

/-- `SOUND_ON(value, threshold)`, an OPEN host parameter (R426, D32; log 16). -/
opaque Config.soundOnRel : Byte → Nat → Bool

/-- `C8E_BCD_SOURCE(V, x, y)` where the spec's named readings give no value (R336; log 13). -/
opaque Config.c8eBcdWord : Vector Byte 16 → Reg → Reg → Word

/-- Byte `k` of `C8E_ASCII_RENDER(c, ascii_patterns, ascii_index)` (R337; log 14). -/
opaque Config.c8eAsciiRender : Byte → List Byte → List Byte → Nat → Byte

/-- The general registers after `C8E_ASCII_RESULT`, from those before, the fields `x`, `y` and the two tables
(R337; log 14). -/
opaque Config.c8eAsciiRegs : Vector Byte 16 → Reg → Reg → List Byte → List Byte → Vector Byte 16

/-- What an unidentified sixth operation does, from `V`, `I` and the fields `x`, `y` (R338; log 15). -/
opaque Config.c8eOp6 : Vector Byte 16 → Addr → Reg → Reg → C8EOp6Effect

end Sys2Proof
end

