-- ==== Sys2Proof/Machine/Params.lean ====
section
/-! DEFINITION. The parameters the profile fixes (00_scope.md R9), the effective grid (10_state.md R40), the character ROM and the
construction contents of memory (10_state.md R55 to R57, 70_reset_and_hazards.md R500), and the default configuration. -/

namespace Sys2Proof

/-- `PROGRAM_BASE` (R9). -/
def programBase : Nat := 0x200

/-- `MEM_SIZE` (R9, R70). -/
def Config.memSize (c : Config) : Nat :=
  match c.profile with
  | .vip => 0xEA0
  | .sChip => 0xFFF

/-- `STACK_MAX` (R9, R35). -/
def Config.stackMax (c : Config) : Nat :=
  match c.profile with
  | .vip => 12
  | .sChip => 16

/-- `BW`, the width of the backing grid (R9, R38). -/
def Config.backW (c : Config) : Nat :=
  match c.profile with
  | .vip => 64
  | .sChip => 128

/-- `BH`, the height of the backing grid (R9, R38). -/
def Config.backH (c : Config) : Nat :=
  match c.profile with
  | .vip => 32
  | .sChip => 64

/-- `W`, the width of the effective grid (R40). -/
def Config.effW (c : Config) (hires : Bool) : Nat :=
  match c.profile, hires with
  | .sChip, true => 128
  | .sChip, false => 64
  | .vip, _ => 64

/-- `H`, the height of the effective grid (R40). -/
def Config.effH (c : Config) (hires : Bool) : Nat :=
  match c.profile, hires with
  | .sChip, true => 64
  | .sChip, false => 32
  | .vip, _ => 32

/-- The default `FONT_LO` (R56): 16 glyphs of 5 bytes. -/
def defaultFontLo : List Byte :=
  [0xF0, 0x90, 0x90, 0x90, 0xF0] ++
  [0x20, 0x60, 0x20, 0x20, 0x70] ++
  [0xF0, 0x10, 0xF0, 0x80, 0xF0] ++
  [0xF0, 0x10, 0xF0, 0x10, 0xF0] ++
  [0x90, 0x90, 0xF0, 0x10, 0x10] ++
  [0xF0, 0x80, 0xF0, 0x10, 0xF0] ++
  [0xF0, 0x80, 0xF0, 0x90, 0xF0] ++
  [0xF0, 0x10, 0x20, 0x40, 0x40] ++
  [0xF0, 0x90, 0xF0, 0x90, 0xF0] ++
  [0xF0, 0x90, 0xF0, 0x10, 0xF0] ++
  [0xF0, 0x90, 0xF0, 0x90, 0x90] ++
  [0xE0, 0x90, 0xE0, 0x90, 0xE0] ++
  [0xF0, 0x80, 0x80, 0x80, 0xF0] ++
  [0xE0, 0x90, 0x90, 0x90, 0xE0] ++
  [0xF0, 0x80, 0xF0, 0x80, 0xF0] ++
  [0xF0, 0x80, 0xF0, 0x80, 0x80]

/-- The default slots 0 to 9 of `FONT_HI` (R57): 10 glyphs of 10 bytes. -/
def defaultFontHi : List Byte :=
  [0x3C, 0x7E, 0xE7, 0xC3, 0xC3, 0xC3, 0xC3, 0xE7, 0x7E, 0x3C] ++
  [0x18, 0x38, 0x58, 0x18, 0x18, 0x18, 0x18, 0x18, 0x18, 0x3C] ++
  [0x3E, 0x7F, 0xC3, 0x06, 0x0C, 0x18, 0x30, 0x60, 0xFF, 0xFF] ++
  [0x3C, 0x7E, 0xC3, 0x03, 0x0E, 0x0E, 0x03, 0xC3, 0x7E, 0x3C] ++
  [0x06, 0x0E, 0x1E, 0x36, 0x66, 0xC6, 0xFF, 0xFF, 0x06, 0x06] ++
  [0xFF, 0xFF, 0xC0, 0xC0, 0xFC, 0xFE, 0x03, 0xC3, 0x7E, 0x3C] ++
  [0x3E, 0x7C, 0xC0, 0xC0, 0xFC, 0xFE, 0xC3, 0xC3, 0x7E, 0x3C] ++
  [0xFF, 0xFF, 0x03, 0x06, 0x0C, 0x18, 0x30, 0x60, 0x60, 0x60] ++
  [0x3C, 0x7E, 0xC3, 0xC3, 0x7E, 0x7E, 0xC3, 0xC3, 0x7E, 0x3C] ++
  [0x3C, 0x7E, 0xC3, 0xC3, 0x7F, 0x3F, 0x03, 0x03, 0x3E, 0x7C]

/-- Byte `k` of the 160-byte high-res font: slots 0 to 9, then slots 10 to 15, which are zero unless CHIP-8E is enabled and
then hold `FONT_HI_EXT` (R55, R57, R330). -/
def Config.fontHiByte (c : Config) (k : Nat) : Byte :=
  if k < 100 then c.fontHi.getD k 0#8
  else
    match c.c8e with
    | none => 0#8
    | some p => p.fontHiExt.getD (k - 100) 0#8

/-- The byte of the CHIP-8E tables at an address, 0 where there is none (R337, R72). -/
def C8E.tableByte (p : C8E) (a : Nat) : Byte :=
  if p.asciiPatBase ≤ a ∧ a < p.asciiPatBase + p.asciiPatterns.length then p.asciiPatterns.getD (a - p.asciiPatBase) 0#8
  else if p.asciiIdxBase ≤ a ∧ a < p.asciiIdxBase + p.asciiIndex.length then p.asciiIndex.getD (a - p.asciiIdxBase) 0#8
  else 0#8

/-- The construction contents of memory (R500): the fonts, the CHIP-8E tables, and 0 in every other byte. Nothing but 0 lies
at 0x200 or above (R72). This is what an address that `State.mem` does not list reads as. -/
def Config.initByte (c : Config) (a : Nat) : Byte :=
  if programBase ≤ a then 0#8
  else if c.fontLoBase ≤ a ∧ a < c.fontLoBase + 80 then c.fontLo.getD (a - c.fontLoBase) 0#8
  else if c.fontHiBase ≤ a ∧ a < c.fontHiBase + 160 then c.fontHiByte (a - c.fontHiBase)
  else
    match c.c8e with
    | none => 0#8
    | some p => p.tableByte a

/-- The configuration of `State.reset` (log 2): the spec's defaults where it has them (D4 to D6, D21), and a choice where it
has none. -/
def Config.default : Config where
  profile        := .sChip
  spriteMode     := .clip
  soundEnable    := true
  soundThreshold := 1
  tickUs         := 16667
  fontLoBase     := 0x000
  fontHiBase     := 0x050
  fontLo         := defaultFontLo
  fontHi         := defaultFontHi
  c8e            := none

/-- Two address ranges `[a, a + n)` and `[b, b + m)` share no address. -/
def rangesApart (a n b m : Nat) : Bool :=
  a + n ≤ b || b + m ≤ a

/-- The placement of the CHIP-8E tables and scratch region (R337): inside 0x0F0..0x1FF, apart from the fonts and from each
other, with at least one glyph row (R339) and 60 bytes for `FONT_HI` slots 10 to 15 (R57). -/
def C8E.layoutValid (p : C8E) (c : Config) : Bool :=
  let regions := [(p.asciiPatBase, p.asciiPatterns.length), (p.asciiIdxBase, p.asciiIndex.length),
    (p.asciiScratch, p.asciiRows)]
  regions.all (fun r => 0x0F0 ≤ r.1 && r.1 + r.2 ≤ programBase &&
    rangesApart r.1 r.2 c.fontLoBase 80 && rangesApart r.1 r.2 c.fontHiBase 160) &&
  rangesApart p.asciiPatBase p.asciiPatterns.length p.asciiIdxBase p.asciiIndex.length &&
  rangesApart p.asciiPatBase p.asciiPatterns.length p.asciiScratch p.asciiRows &&
  rangesApart p.asciiIdxBase p.asciiIndex.length p.asciiScratch p.asciiRows &&
  1 ≤ p.asciiRows && p.fontHiExt.length == 60

/-- What construction validates (R8, R406): the profile and the sprite mode are valid by their types, so only the sound
threshold is left. -/
def Config.validated (c : Config) : Bool :=
  1 ≤ c.soundThreshold && c.soundThreshold ≤ 255

/-- The shape of the parameters the spec gives (R55 to R57, D5, R423): a positive tick period, two fonts of the stated sizes
below 0x200 that do not overlap, and the CHIP-8E layout. -/
def Config.layoutValid (c : Config) : Bool :=
  1 ≤ c.tickUs && c.fontLo.length == 80 && c.fontHi.length == 100 &&
  c.fontLoBase + 80 ≤ programBase && c.fontHiBase + 160 ≤ programBase &&
  rangesApart c.fontLoBase 80 c.fontHiBase 160 &&
  c.c8e.all (·.layoutValid c)

end Sys2Proof
end

