-- ==== Sys2Proof/Syntax.lean ====
section
/-! DEFINITION. The instructions: one constructor for each row of spec/opcode_table.json (30_encoding.md R107, R109), and the
reasons a word or a byte sequence is no instruction. -/

namespace Sys2Proof

/-- One constructor per row of the opcode table; the operands are the row's fields (30_encoding.md R101, R102). -/
inductive Instr
  -- baseline: control flow and skips (41_control_flow.md)
  | sys (nnn : Addr)
  | cls
  | ret
  | jp (nnn : Addr)
  | call (nnn : Addr)
  | seVxNn (x : Reg) (nn : Byte)
  | sneVxNn (x : Reg) (nn : Byte)
  | seVxVy (x y : Reg)
  -- baseline: register arithmetic and logic (42_alu.md)
  | ldVxNn (x : Reg) (nn : Byte)
  | addVxNn (x : Reg) (nn : Byte)
  | ldVxVy (x y : Reg)
  | or (x y : Reg)
  | and (x y : Reg)
  | xor (x y : Reg)
  | addVxVy (x y : Reg)
  | sub (x y : Reg)
  | shr (x y : Reg)
  | subn (x y : Reg)
  | shl (x y : Reg)
  | sneVxVy (x y : Reg)
  -- baseline: address register, jumps with offset, random, display, keys, timers, memory
  | ldI (nnn : Addr)
  | jpV0 (nnn : Addr)
  | rnd (x : Reg) (nn : Byte)
  | drw (x y : Reg) (n : Nibble)
  | drw16 (x y : Reg)
  | skp (x : Reg)
  | sknp (x : Reg)
  | ldVxDt (x : Reg)
  | ldVxK (x : Reg)
  | ldDtVx (x : Reg)
  | ldStVx (x : Reg)
  | addIVx (x : Reg)
  | ldF (x : Reg)
  | ldB (x : Reg)
  | ldMiVx (x : Reg)
  | ldVxMi (x : Reg)
  -- SUPER-CHIP (45_superchip.md)
  | scd (n : Nibble)
  | scr
  | scl
  | exit
  | low
  | high
  | ldHf (x : Reg)
  | ldRVx (x : Reg)
  | ldVxR (x : Reg)
  -- CHIP-8E (46_chip8e.md)
  | c8eSks (x y : Reg)
  | c8eMul (x y : Reg)
  | c8eDiv (x y : Reg)
  | c8eBcd16 (x y : Reg)
  | c8eAscii (x y : Reg)
  | c8eOp6 (x y : Reg)
  deriving DecidableEq, Repr

/-- Why bytes are no instruction: too few of them, or a word of one of the five illegal groups of
30_encoding.md R105. -/
inductive Reject
  | tooShort
  | illegal5XYn
  | illegal8XYn
  | illegal9XYn
  | illegalEXnn
  | illegalFXnn
  deriving DecidableEq, Repr

end Sys2Proof
end

