-- ==== Sys2Proof/WellFormed.lean ====
section
/-! DEFINITION. When a term of `Instr` is an instruction of a machine: its fields select its own row of the opcode table
(30_encoding.md R104 to R106). -/

namespace Sys2Proof

/-- The word a CHIP-8E row gives the fields `x` and `y`: they sit at `w[11:8]` and `w[7:4]` (R106, R331). -/
def C8ERow.word (r : C8ERow) (x y : Reg) : Word :=
  (r.pat &&& 0xF00F#16) ||| (0#4 ++ x ++ y ++ 0#4)

/-- The row claims the word: `(w AND mask) = match` (R104). -/
def C8ERow.matches (r : C8ERow) (w : Word) : Bool :=
  w &&& r.mask == r.pat

/-- The row has a word with these fields. -/
def C8ERow.admits (r : C8ERow) (x y : Reg) : Bool :=
  r.matches (r.word x y)

/-- The low 12 bits of the 0x0 words that another row claims: 00E0, 00EE, 00CN, 00FB..00FF (R104). -/
def claimed0 (nnn : Addr) : Bool :=
  nnn == 0x0E0#12 || nnn == 0x0EE#12 || nnn.extractLsb' 4 8 == 0x0C#8 || nnn == 0x0FB#12 || nnn == 0x0FC#12 ||
  nnn == 0x0FD#12 || nnn == 0x0FE#12 || nnn == 0x0FF#12

/-- The checks on an instruction. `SYS nnn` is what no other 0x0 row claims, DXYN has `n ≠ 0` (`n = 0` is DXY0), and a
CHIP-8E operation exists only on a machine whose configuration gives it a row with these fields. -/
def Instr.wellFormed (cfg : Config) : Instr → Bool
  | .sys nnn => !claimed0 nnn
  | .drw _ _ n => n != 0#4
  | .c8eSks x y => cfg.c8e.any (·.encSks.admits x y)
  | .c8eMul x y => cfg.c8e.any (·.encMul.admits x y)
  | .c8eDiv x y => cfg.c8e.any (·.encDiv.admits x y)
  | .c8eBcd16 x y => cfg.c8e.any (·.encBcd16.admits x y)
  | .c8eAscii x y => cfg.c8e.any (·.encAscii.admits x y)
  | .c8eOp6 x y => cfg.c8e.any fun p => p.op6.any (·.enc.admits x y)
  | .cls | .ret | .jp _ | .call _ | .seVxNn _ _ | .sneVxNn _ _ | .seVxVy _ _ | .ldVxNn _ _ | .addVxNn _ _
  | .ldVxVy _ _ | .or _ _ | .and _ _ | .xor _ _ | .addVxVy _ _ | .sub _ _ | .shr _ _ | .subn _ _ | .shl _ _
  | .sneVxVy _ _ | .ldI _ | .jpV0 _ | .rnd _ _ | .drw16 _ _ | .skp _ | .sknp _ | .ldVxDt _ | .ldVxK _ | .ldDtVx _
  | .ldStVx _ | .addIVx _ | .ldF _ | .ldB _ | .ldMiVx _ | .ldVxMi _ | .scd _ | .scr | .scl | .exit | .low | .high
  | .ldHf _ | .ldRVx _ | .ldVxR _ => true

end Sys2Proof
end

