-- ==== Sys2Proof/Decode.lean ====
section
/-! DEFINITION. The decoder (30_encoding.md R100 to R106), total on any bytes, and the encoder written from the same rows of
spec/opcode_table.json. -/

namespace Sys2Proof

/-- The 0x0 group: the fixed words and 00CN, and SYS for every other word (R104). -/
def decode0 (w : Word) : Instr :=
  if w = 0x00E0#16 then .cls
  else if w = 0x00EE#16 then .ret
  else if w.extractLsb' 4 12 = 0x00C#12 then .scd (w.extractLsb' 0 4)
  else if w = 0x00FB#16 then .scr
  else if w = 0x00FC#16 then .scl
  else if w = 0x00FD#16 then .exit
  else if w = 0x00FE#16 then .low
  else if w = 0x00FF#16 then .high
  else .sys (w.extractLsb' 0 12)

/-- The 0x8 group, by the function nibble `n` (R104). -/
def decode8 (x y : Reg) (n : Nibble) : Except Reject Instr :=
  if n = 0x0#4 then .ok (.ldVxVy x y)
  else if n = 0x1#4 then .ok (.or x y)
  else if n = 0x2#4 then .ok (.and x y)
  else if n = 0x3#4 then .ok (.xor x y)
  else if n = 0x4#4 then .ok (.addVxVy x y)
  else if n = 0x5#4 then .ok (.sub x y)
  else if n = 0x6#4 then .ok (.shr x y)
  else if n = 0x7#4 then .ok (.subn x y)
  else if n = 0xE#4 then .ok (.shl x y)
  else .error .illegal8XYn

/-- The 0xE group, by the function byte `nn` (R104). -/
def decodeE (x : Reg) (nn : Byte) : Except Reject Instr :=
  if nn = 0x9E#8 then .ok (.skp x)
  else if nn = 0xA1#8 then .ok (.sknp x)
  else .error .illegalEXnn

/-- The 0xF group, by the function byte `nn` (R104). -/
def decodeF (x : Reg) (nn : Byte) : Except Reject Instr :=
  if nn = 0x07#8 then .ok (.ldVxDt x)
  else if nn = 0x0A#8 then .ok (.ldVxK x)
  else if nn = 0x15#8 then .ok (.ldDtVx x)
  else if nn = 0x18#8 then .ok (.ldStVx x)
  else if nn = 0x1E#8 then .ok (.addIVx x)
  else if nn = 0x29#8 then .ok (.ldF x)
  else if nn = 0x30#8 then .ok (.ldHf x)
  else if nn = 0x33#8 then .ok (.ldB x)
  else if nn = 0x55#8 then .ok (.ldMiVx x)
  else if nn = 0x65#8 then .ok (.ldVxMi x)
  else if nn = 0x75#8 then .ok (.ldRVx x)
  else if nn = 0x85#8 then .ok (.ldVxR x)
  else .error .illegalFXnn

/-- The map of R104 without CHIP-8E: the baseline and SUPER-CHIP families. The fields are those of R101. -/
def decodeBase (w : Word) : Except Reject Instr :=
  let x : Reg := w.extractLsb' 8 4
  let y : Reg := w.extractLsb' 4 4
  let n : Nibble := w.extractLsb' 0 4
  let nn : Byte := w.extractLsb' 0 8
  let nnn : Addr := w.extractLsb' 0 12
  match (w.extractLsb' 12 4).toNat with
  | 0x0 => .ok (decode0 w)
  | 0x1 => .ok (.jp nnn)
  | 0x2 => .ok (.call nnn)
  | 0x3 => .ok (.seVxNn x nn)
  | 0x4 => .ok (.sneVxNn x nn)
  | 0x5 => if n = 0#4 then .ok (.seVxVy x y) else .error .illegal5XYn
  | 0x6 => .ok (.ldVxNn x nn)
  | 0x7 => .ok (.addVxNn x nn)
  | 0x8 => decode8 x y n
  | 0x9 => if n = 0#4 then .ok (.sneVxVy x y) else .error .illegal9XYn
  | 0xA => .ok (.ldI nnn)
  | 0xB => .ok (.jpV0 nnn)
  | 0xC => .ok (.rnd x nn)
  | 0xD => if n = 0#4 then .ok (.drw16 x y) else .ok (.drw x y n)
  | 0xE => decodeE x nn
  | _ => decodeF x nn

/-- The CHIP-8E rows, tried in the order of R339 (they are pairwise disjoint, R106). -/
def decodeC8E (p : C8E) (w : Word) : Option Instr :=
  let x : Reg := w.extractLsb' 8 4
  let y : Reg := w.extractLsb' 4 4
  if p.encSks.matches w then some (.c8eSks x y)
  else if p.encMul.matches w then some (.c8eMul x y)
  else if p.encDiv.matches w then some (.c8eDiv x y)
  else if p.encBcd16.matches w then some (.c8eBcd16 x y)
  else if p.encAscii.matches w then some (.c8eAscii x y)
  else if p.op6.any (·.enc.matches w) then some (.c8eOp6 x y)
  else none

/-- `decode(w, cfg)` (R104): CHIP-8E rows are looked at only for words that the other families leave illegal, and only when
the family is enabled. -/
def decode (cfg : Config) (w : Word) : Except Reject Instr :=
  match decodeBase w with
  | .ok i => .ok i
  | .error r =>
    match cfg.c8e with
    | none => .error r
    | some p =>
      match decodeC8E p w with
      | some i => .ok i
      | none => .error r

/-- The big-endian word of two bytes: the byte at the lower address is the high byte (R79). -/
def wordOfBytes (hi lo : Byte) : Word := hi ++ lo

/-- The bytes of a word, as memory holds them (R79). -/
def bytesOfWord (w : Word) : List Byte := [w.extractLsb' 8 8, w.extractLsb' 0 8]

/-- Decoding bytes: one instruction and the bytes after it (R100). -/
def decodeBytes (cfg : Config) : List Byte → Except Reject (Instr × List Byte)
  | hi :: lo :: rest =>
    match decode cfg (wordOfBytes hi lo) with
    | .ok i => .ok (i, rest)
    | .error r => .error r
  | [] | [_] => .error .tooShort

/-- The word of each instruction, from its row of spec/opcode_table.json; none where the machine has no row for it. -/
def encode (cfg : Config) : Instr → Option Word
  | .sys nnn => some (0x0#4 ++ nnn)
  | .cls => some 0x00E0#16
  | .ret => some 0x00EE#16
  | .jp nnn => some (0x1#4 ++ nnn)
  | .call nnn => some (0x2#4 ++ nnn)
  | .seVxNn x nn => some (0x3#4 ++ x ++ nn)
  | .sneVxNn x nn => some (0x4#4 ++ x ++ nn)
  | .seVxVy x y => some (0x5#4 ++ x ++ y ++ 0x0#4)
  | .ldVxNn x nn => some (0x6#4 ++ x ++ nn)
  | .addVxNn x nn => some (0x7#4 ++ x ++ nn)
  | .ldVxVy x y => some (0x8#4 ++ x ++ y ++ 0x0#4)
  | .or x y => some (0x8#4 ++ x ++ y ++ 0x1#4)
  | .and x y => some (0x8#4 ++ x ++ y ++ 0x2#4)
  | .xor x y => some (0x8#4 ++ x ++ y ++ 0x3#4)
  | .addVxVy x y => some (0x8#4 ++ x ++ y ++ 0x4#4)
  | .sub x y => some (0x8#4 ++ x ++ y ++ 0x5#4)
  | .shr x y => some (0x8#4 ++ x ++ y ++ 0x6#4)
  | .subn x y => some (0x8#4 ++ x ++ y ++ 0x7#4)
  | .shl x y => some (0x8#4 ++ x ++ y ++ 0xE#4)
  | .sneVxVy x y => some (0x9#4 ++ x ++ y ++ 0x0#4)
  | .ldI nnn => some (0xA#4 ++ nnn)
  | .jpV0 nnn => some (0xB#4 ++ nnn)
  | .rnd x nn => some (0xC#4 ++ x ++ nn)
  | .drw x y n => some (0xD#4 ++ x ++ y ++ n)
  | .drw16 x y => some (0xD#4 ++ x ++ y ++ 0x0#4)
  | .skp x => some (0xE#4 ++ x ++ 0x9E#8)
  | .sknp x => some (0xE#4 ++ x ++ 0xA1#8)
  | .ldVxDt x => some (0xF#4 ++ x ++ 0x07#8)
  | .ldVxK x => some (0xF#4 ++ x ++ 0x0A#8)
  | .ldDtVx x => some (0xF#4 ++ x ++ 0x15#8)
  | .ldStVx x => some (0xF#4 ++ x ++ 0x18#8)
  | .addIVx x => some (0xF#4 ++ x ++ 0x1E#8)
  | .ldF x => some (0xF#4 ++ x ++ 0x29#8)
  | .ldB x => some (0xF#4 ++ x ++ 0x33#8)
  | .ldMiVx x => some (0xF#4 ++ x ++ 0x55#8)
  | .ldVxMi x => some (0xF#4 ++ x ++ 0x65#8)
  | .scd n => some (0x00C#12 ++ n)
  | .scr => some 0x00FB#16
  | .scl => some 0x00FC#16
  | .exit => some 0x00FD#16
  | .low => some 0x00FE#16
  | .high => some 0x00FF#16
  | .ldHf x => some (0xF#4 ++ x ++ 0x30#8)
  | .ldRVx x => some (0xF#4 ++ x ++ 0x75#8)
  | .ldVxR x => some (0xF#4 ++ x ++ 0x85#8)
  | .c8eSks x y => cfg.c8e.map (·.encSks.word x y)
  | .c8eMul x y => cfg.c8e.map (·.encMul.word x y)
  | .c8eDiv x y => cfg.c8e.map (·.encDiv.word x y)
  | .c8eBcd16 x y => cfg.c8e.map (·.encBcd16.word x y)
  | .c8eAscii x y => cfg.c8e.map (·.encAscii.word x y)
  | .c8eOp6 x y => cfg.c8e.bind fun p => p.op6.map (·.enc.word x y)

/-- R106, first constraint, for one CHIP-8E row: it lies wholly inside the illegal set of the other families. -/
def C8ERow.InIllegalSet (r : C8ERow) : Prop :=
  ∀ w : Word, r.matches w = true → ∃ e, decodeBase w = .error e

/-- R106, second constraint, for two CHIP-8E rows: no word belongs to both. -/
def C8ERow.Disjoint (r r' : C8ERow) : Prop :=
  ∀ w : Word, ¬ (r.matches w = true ∧ r'.matches w = true)

/-- R106, third constraint, for one CHIP-8E row: the bits of the fields under `fields` are left to the operands. -/
def C8ERow.LeavesFree (r : C8ERow) (fields : Word) : Prop :=
  r.mask &&& fields = 0#16

/-- The rows of the CHIP-8E family that exist (R339; an empty sixth encoding has no row, R338). -/
def C8E.rows (p : C8E) : List C8ERow :=
  [p.encSks, p.encMul, p.encDiv, p.encBcd16, p.encAscii] ++ (p.op6.map (·.enc)).toList

/-- The three constraints of R106 and R331 on the CHIP-8E encodings. The operations whose operands are surely both `V[x]`
and `V[y]` (R333 to R335) leave both fields free; the BCD and ASCII operations leave `x` free (log 12). Which field bits the sixth row
leaves free is OPEN with its operands (R338): no free-field constraint on it, whatever its meaning, is a DESIGN CHOICE (log 25). -/
structure C8E.EncodingsValid (p : C8E) : Prop where
  inIllegalSet : ∀ r ∈ p.rows, r.InIllegalSet
  disjoint     : p.rows.Pairwise C8ERow.Disjoint
  freeXY       : ∀ r ∈ [p.encSks, p.encMul, p.encDiv], r.LeavesFree 0x0FF0#16
  freeX        : ∀ r ∈ [p.encBcd16, p.encAscii], r.LeavesFree 0x0F00#16

/-- What this decoder reads from a table row's bits on the machine of `State.reset`: the word is laid out big-endian, as
memory holds it, and given to `decodeBytes`. An instruction is one 16-bit word, so only 16 bits can be used. -/
def decodeTableWord (nbits w : Nat) : Option Instr :=
  match decodeBytes Config.default (bytesOfWord (BitVec.ofNat 16 (w % 2 ^ nbits))) with
  | .ok (i, _) => some i
  | .error _ => none

end Sys2Proof
end

