-- ==== Sys2Proof/Machine/Validity.lean ====
section
/-! DEFINITION. Which configurations are machines of the spec: what construction validates and what the OPEN parameters must
meet (00_scope.md R8, R10; 30_encoding.md R106). -/

namespace Sys2Proof

/-- A configuration of the spec: validated at construction (R406), parameters of the stated shapes (R55, R337) and CHIP-8E
encodings that meet R106. -/
structure Config.Valid (c : Config) : Prop where
  validated : c.validated = true
  layout    : c.layoutValid = true
  encodings : ∀ p, c.c8e = some p → p.EncodingsValid

end Sys2Proof
end

