-- ==== Sys2Proof/Machine/State.lean ====
section
/-! DEFINITION. The state of the core (10_state.md R30 to R47, R58), the reasons a step can stop, and the machine right after
construction (70_reset_and_hazards.md R500). -/

namespace Sys2Proof.Machine

/-- A timer's capture (R37): idle, or the captured start value and the clock reading when it was set. -/
inductive TimerCapture
  | idle
  | running (v : Byte) (t0 : Nat)
  deriving DecidableEq, Repr

/-- A set of keys, 0x0 to 0xF, as 16 Booleans (R41, R43, R430). -/
abbrev KeySet := Vector Bool 16

/-- Memory (R70): the bytes that differ from the construction contents, as (address, byte) pairs in rising address order. -/
abbrev Memory := List Host.Cell

/-- The backing grid (R38) as a list of rows, row 0 at the top; row `y`, element `x` is the pixel `fb[x][y]`. -/
abbrev Framebuffer := List (List Bool)

/-- The codes of the faults a step raises (R401). CONFIG and LOAD_FAIL are raised outside a step: `ConfigError` and
`LoadError`. -/
inductive FaultCode
  | fetchRange
  | decode
  | profile
  | operand
  | memRange
  | divZero
  | stackOverflow
  | stackUnderflow
  deriving DecidableEq, Repr

/-- The fatal-fault record (R45, R402). -/
structure FaultRecord where
  code      : FaultCode
  fetchAddr : Addr
  word      : Option Word
  addr      : Option Nat
  deriving DecidableEq, Repr

/-- CONFIG with the offending field (R401, R406). -/
inductive ConfigError
  | soundThreshold
  deriving DecidableEq, Repr

/-- LOAD_FAIL with its reason (R401, R407). -/
inductive LoadError
  | empty
  | tooLarge
  deriving DecidableEq, Repr

/-- The step result (R137). -/
structure StepResult where
  needsSync     : Bool
  exitRequested : Bool
  deriving DecidableEq, Repr

/-- What the host does to the core between steps (R440): supply the clock reading, replace the key-down set, load a ROM,
reload. -/
inductive HostAction
  | clock (now : Nat)
  | keys (down : KeySet)
  | load (rom : List Byte)
  | reload
  deriving DecidableEq, Repr

/-- The state of the core. The fields down to `cfg` are the spec's (R58); `now`, `inputs` and `result` are the inputs and
outputs of a step held as data (logs 3, 8); `draws` is the model's own counter of free values (log 4). -/
structure State where
  v       : Vector Byte 16
  i       : Addr
  pc      : Addr
  sp      : Nat
  stack   : Vector Addr 16
  rpl     : Vector Byte 8
  dt      : TimerCapture
  st      : TimerCapture
  mem     : Memory
  progEnd : Nat
  image   : List Byte
  fb      : Framebuffer
  hires   : Bool
  down    : KeySet
  armed   : Bool
  hints   : KeySet
  halted  : Bool
  fault   : Option FaultRecord
  cfg     : Config
  now     : Nat
  inputs  : List (List HostAction)
  result  : Option StepResult
  draws   : Nat
  deriving DecidableEq, Repr

/-- Why a step does not exist (R131). A fault of the spec is no constructor here: it is a next state whose `fault` is set
(log 6). -/
inductive Fault
  /-- Raised by `step` alone, in a state with `halted = true` and no fault. Safe: the spec gives such a state no step. -/
  | stepWhileHalted
  /-- Raised by `step` alone, in a state with `fault ≠ none`. Safe: the spec gives such a state no step. -/
  | stepWhileFaulted
  deriving DecidableEq, Repr

/-- Why the model has no meaning for an instruction. -/
inductive Refusal
  /-- Raised by an arm of `exec` that has no meaning yet; no arm is left so. Safe: nothing is claimed of the instruction. -/
  | notModelled (mnemonic : String)
  deriving DecidableEq, Repr

/-- What a meaning answers. -/
abbrev Result := Host.Outcome State Fault Refusal

/-- The state right after construction from a configuration (R500). `now`, `inputs`, `result`, `draws`, `image` and the stack
entries are the model's choice (logs 3, 4, 8, 9, 19). -/
def State.powerOn (cfg : Config) : State where
  v       := Vector.replicate 16 0#8
  i       := 0#12
  pc      := 0x1FE#12
  sp      := 0
  stack   := Vector.replicate 16 0#12
  rpl     := Vector.replicate 8 0#8
  dt      := .idle
  st      := .idle
  mem     := []
  progEnd := programBase
  image   := []
  fb      := List.replicate cfg.backH (List.replicate cfg.backW false)
  hires   := false
  down    := Vector.replicate 16 false
  armed   := false
  hints   := Vector.replicate 16 false
  halted  := false
  fault   := none
  cfg     := cfg
  now     := 0
  inputs  := []
  result  := none
  draws   := 0

/-- Construction (R406, R500, R501): an invalid configuration builds no machine. -/
def State.construct (cfg : Config) : Except ConfigError State :=
  if cfg.validated then .ok (State.powerOn cfg) else .error .soundThreshold

/-- The machine right after reset: construction from the default configuration, with no program loaded (R500, log 2). -/
def State.reset : State := State.powerOn Config.default

end Sys2Proof.Machine
end

