-- ==== Sys2Proof/Machine/Ops.lean ====
section
/-! DEFINITION. The named operations over registers and memory, and the taking of a fault (20_memory.md R76 to R80,
60_exceptions.md R402). There is no return from a fault (R405): only a reload, in Machine/HostOps.lean, clears it. -/

namespace Sys2Proof.Machine

/-! ## Registers -/

/-- `V[x]` (R13). -/
def State.reg (s : State) (x : Reg) : Byte := s.v[x.toNat]'x.isLt

/-- `V[x] <- b` (R13). No register is hardwired (R30). -/
def State.setReg (s : State) (x : Reg) (b : Byte) : State := { s with v := s.v.set x.toNat b x.isLt }

/-- `I <- a`. -/
def State.setI (s : State) (a : Addr) : State := { s with i := a }

/-- `pc <- a`. -/
def State.setPc (s : State) (a : Addr) : State := { s with pc := a }

/-- `V[x] <- b`, then `VF <- f`: the order of D7, so that the flag survives when `x = F` (R32). -/
def State.setRegFlag (s : State) (x : Reg) (b f : Byte) : State := (s.setReg x b).setReg VF f

/-- The bytes `bs` written to the slots `k, k+1, …` of a register file (FX65, FX75, FX85). -/
def setFrom {n : Nat} (v : Vector Byte n) (k : Nat) : List Byte → Vector Byte n
  | [] => v
  | b :: bs => setFrom (v.setIfInBounds k b) (k + 1) bs

/-! ## Control transfer (41_control_flow.md) -/

/-- `goto(T)`: `pc <- (T − 2) mod 0x1000`, so that the next step fetches at `T` (R33). The target is a natural number
(D28). -/
def State.goto (s : State) (t : Nat) : State := s.setPc (BitVec.ofNat 12 t - 2#12)

/-- `skip`: `pc <- (pc + 2) mod 0x1000` (R33). -/
def State.skip (s : State) : State := s.setPc (s.pc + 2#12)

/-- `skip` where a condition holds. -/
def State.skipIf (s : State) (c : Bool) : State := if c then s.skip else s

/-- The step's increment and the rewind of the key wait (R132, R142) are the same 12-bit arithmetic. -/
def State.rewind (s : State) : State := s.setPc (s.pc - 2#12)

/-! ## Memory -/

/-- The byte at an address of a memory whose unlisted addresses read as `init` (R70). -/
def Memory.read (init : Nat → Byte) : Memory → Nat → Byte
  | [], a => init a
  | (a', b') :: m, a => if a = a' then b' else Memory.read init m a

/-- Writing one byte. The list stays in rising order, and a byte equal to what the unlisted address reads as is not
listed. -/
def Memory.write (init : Nat → Byte) : Memory → Nat → Byte → Memory
  | [], a, b => if b = init a then [] else [(a, b)]
  | (a', b') :: m, a, b =>
    if a < a' then (if b = init a then (a', b') :: m else (a, b) :: (a', b') :: m)
    else if a = a' then (if b = init a then m else (a, b) :: m)
    else (a', b') :: Memory.write init m a b

/-- Writing bytes to `a, a+1, …`. -/
def Memory.writeBytes (init : Nat → Byte) (m : Memory) (a : Nat) : List Byte → Memory
  | [] => m
  | b :: bs => Memory.writeBytes init (Memory.write init m a b) (a + 1) bs

/-- The canonical form: addresses strictly rising, all below the memory size, no byte equal to what the unlisted address
reads as. -/
abbrev Memory.wf (size : Nat) (init : Nat → Byte) (m : Memory) : Prop :=
  m.Pairwise (fun c d => c.1 < d.1) ∧ ∀ c ∈ m, c.1 < size ∧ c.2 ≠ init c.1

/-- `mem[a]`. -/
def State.byte (s : State) (a : Nat) : Byte := Memory.read s.cfg.initByte s.mem a

/-- The `n` bytes `mem[a], …, mem[a+n−1]` (R76). -/
def State.bytes (s : State) (a : Nat) : Nat → List Byte
  | 0 => []
  | n + 1 => s.byte a :: s.bytes (a + 1) n

/-- `mem[a + k] <- bs[k]` (R77). -/
def State.storeBytes (s : State) (a : Nat) (bs : List Byte) : State :=
  { s with mem := Memory.writeBytes s.cfg.initByte s.mem a bs }

/-- The big-endian 16-bit word at an address (R79). -/
def State.wordAt (s : State) (a : Nat) : Word := wordOfBytes (s.byte a) (s.byte (a + 1))

/-- The regions of the access primitives (R73, R76). -/
inductive Region
  | data
  | sprite
  deriving DecidableEq, Repr

/-- The first address of a region (R76). -/
def Region.lo : Region → Nat
  | .data => programBase
  | .sprite => 0

/-- The lowest address of the `n` bytes from `a` that lies outside `[lo, hi)`, in natural numbers (R76, R77). -/
def firstOutside (lo hi a : Nat) : Nat → Option Nat
  | 0 => none
  | n + 1 => if lo ≤ a ∧ a < hi then firstOutside lo hi (a + 1) n else some a

/-! ## Taking a fault -/

/-- Taking a fatal fault (R402, R403, R405): the record, with `fetch_addr := pc`, and nothing else. There is no handler and
no saved state besides the record. -/
def State.takeFault (s : State) (code : FaultCode) (word : Option Word) (addr : Option Nat) : State :=
  { s with fault := some { code := code, fetchAddr := s.pc, word := word, addr := addr } }

/-- `raise Fault(code, info)` from an instruction (R13, R402): a faulted state. The recorded word is the instruction's own,
which stands in memory at `pc`, the address it was fetched from (R132; log 7). -/
def raise (code : FaultCode) (addr : Option Nat) (s : State) : Result :=
  .next (s.takeFault code (some (s.wordAt s.pc.toNat)) addr)

/-- The range check of `MemRead` and `MemWrite` (R76 to R78): MEM_RANGE with the lowest offending address, or the access goes
on. -/
def checked (r : Region) (a n : Nat) (s : State) (k : Result) : Result :=
  match firstOutside r.lo s.cfg.memSize a n with
  | some bad => raise .memRange (some bad) s
  | none => k

/-- The operand check (D13): OPERAND unless the condition holds. -/
def operandCheck (ok : Bool) (s : State) (k : Result) : Result :=
  if ok then k else raise .operand none s

end Sys2Proof.Machine
end

