-- ==== Sys2Proof/Machine/Flags.lean ====
section
/-! DEFINITION. Every flag computation: what an instruction writes to `VF` (10_state.md R32). -/

namespace Sys2Proof.Machine

/-- A Boolean flag as a byte. -/
def flagByte (b : Bool) : Byte := if b then 1#8 else 0#8

/-- 8XY4: the carry out of bit 7 (R197). -/
def carryFlag (a b : Byte) : Byte := flagByte (256 ≤ a.toNat + b.toNat)

/-- 8XY5 and 8XY7: NOT borrow of `a − b` (R198, R200, D8). -/
def noBorrowFlag (a b : Byte) : Byte := flagByte (b.toNat ≤ a.toNat)

/-- 8XY6: the bit shifted out on the right (R199). -/
def shiftedOutRight (src : Byte) : Byte := src &&& 1#8

/-- 8XYE: the bit shifted out on the left (R201). -/
def shiftedOutLeft (src : Byte) : Byte := src >>> 7

/-- 8XY1, 8XY2, 8XY3: `V[x] <- r`, and `VF <- 0` under Vip only (R194 to R196). -/
def State.setRegLogic (s : State) (x : Reg) (r : Byte) : State :=
  match s.cfg.profile with
  | .vip => s.setRegFlag x r 0#8
  | .sChip => s.setReg x r

/-- DXYN and DXY0: the collision flag (R281, R282). -/
def collisionFlag (coll : Bool) : Byte := flagByte coll

end Sys2Proof.Machine
end

