-- ==== Sys2Proof/Machine/Operands.lean ====
section
/-! DEFINITION. Every operand form that is more than a register or an immediate: the profile's quirks, register lists, decimal
digits, sprite rows and the CHIP-8E operands. -/

namespace Sys2Proof.Machine

/-- The source of 8XY6 and 8XYE: `V[y]` under Vip, `V[x]` under SChip (R199, R201). -/
def State.shiftSource (s : State) (x y : Reg) : Byte :=
  match s.cfg.profile with
  | .vip => s.reg y
  | .sChip => s.reg x

/-- The offset register of BNNN: 0 under Vip, `nnn[11:8]` under SChip (R168). -/
def offsetReg (c : Config) (nnn : Addr) : Reg :=
  match c.profile with
  | .vip => 0#4
  | .sChip => nnn.extractLsb' 8 4

/-- The bytes `V[0], …, V[x]` (R103: `x` as a count). -/
def State.regsUpTo (s : State) (x : Reg) : List Byte := s.v.toList.take (x.toNat + 1)

/-- The bytes `RPL[0], …, RPL[x]` (R308). -/
def State.rplUpTo (s : State) (x : Reg) : List Byte := s.rpl.toList.take (x.toNat + 1)

/-- `I` after FX55 and FX65: past the last register under Vip, unchanged under SChip (R224, R225, D11). -/
def State.bumpI (s : State) (x : Reg) : State :=
  match s.cfg.profile with
  | .vip => s.setI (BitVec.ofNat 12 (s.i.toNat + x.toNat + 1))
  | .sChip => s

/-- The last `n` decimal digits of a number, most significant first (R223, R336). -/
def decimalDigits (u : Nat) : Nat → List Byte
  | 0 => []
  | n + 1 => BitVec.ofNat 8 (u / 10 ^ n % 10) :: decimalDigits u n

/-- Sprite rows of 8 bits: `n` bytes from `a` (R281). -/
def State.rows8 (s : State) (a n : Nat) : List Nat := (s.bytes a n).map BitVec.toNat

/-- Sprite rows of 16 bits: `n` big-endian words from `a` (R282, R80, D26). -/
def State.rows16 (s : State) (a : Nat) : Nat → List Nat
  | 0 => []
  | n + 1 => (s.wordAt a).toNat :: s.rows16 (a + 2) n

/-- The address of a low-font glyph (R222). -/
def fontLoAddr (c : Config) (v : Byte) : Addr := BitVec.ofNat 12 (c.fontLoBase + 5 * v.toNat)

/-- The address of a high-font glyph (R306). -/
def fontHiAddr (c : Config) (v : Byte) : Addr := BitVec.ofNat 12 (c.fontHiBase + 10 * v.toNat)

/-- `C8E_SKIP_REL` on the integers (R333). -/
def relHolds (r : C8ERel) (a b : Int) : Bool :=
  match r with
  | .lt => a < b
  | .le => a ≤ b
  | .gt => b < a
  | .ge => b ≤ a

/-- The two bytes of CHIP-8E MUL: what `V[x]` and `VF` receive (R334). -/
def mulHalves (h : C8EMulHalf) (a b : Byte) : Byte × Byte :=
  let p := a.toNat * b.toNat
  let hi := BitVec.ofNat 8 (p / 256)
  let lo := BitVec.ofNat 8 (p % 256)
  match h with
  | .high => (lo, hi)
  | .low => (hi, lo)

/-- The two bytes of CHIP-8E DIV by a divisor that is not 0: what `V[x]` and `VF` receive (R335). -/
def divParts (d : C8EDivResult) (a b : Byte) : Byte × Byte :=
  let q := BitVec.ofNat 8 (a.toNat / b.toNat)
  let r := BitVec.ofNat 8 (a.toNat % b.toNat)
  match d with
  | .quotRem => (q, r)
  | .remQuot => (r, q)

/-- `C8E_BCD_SOURCE(V, x, y)` (R336). The reading `V[x]·256 + V[x+1]` is stated for `x ≤ 14` only, so at `x = 15`, and
under a reading the spec does not name, the value is free (log 13). -/
def bcdSource (src : C8EBcdSource) (s : State) (x y : Reg) : Word :=
  match src with
  | .vxVy => s.reg x ++ s.reg y
  | .vyVx => s.reg y ++ s.reg x
  | .vxNext => if x = 15#4 then Config.c8eBcdWord s.v x y else s.reg x ++ s.reg (x + 1#4)
  | .other => Config.c8eBcdWord s.v x y

/-- The glyph CHIP-8E ASCII renders: `C8E_ASCII_ROWS` bytes (R337). -/
def asciiGlyph (p : C8E) (c : Byte) : List Byte :=
  (List.range p.asciiRows).map (Config.c8eAsciiRender c p.asciiPatterns p.asciiIndex)

/-- `C8E_ASCII_RESULT` (R337): the general registers after it. -/
def asciiResultRegs (p : C8E) (v : Vector Byte 16) (x y : Reg) : Vector Byte 16 :=
  match p.asciiResult with
  | .nothing => v
  | .registers => Config.c8eAsciiRegs v x y p.asciiPatterns p.asciiIndex

end Sys2Proof.Machine
end

