-- ==== Sys2Proof/Machine/Alu.lean ====
section
/-! DEFINITION. Register arithmetic and logic (42_alu.md R190 to R202). Results are 8 bits, so they wrap (R190). Operands are
read before any write, and VF is written last (D7). -/

namespace Sys2Proof.Machine

/-- LD Vx, nn (R191). -/
def execLdVxNn (x : Reg) (nn : Byte) (s : State) : Result := .next (s.setReg x nn)

/-- ADD Vx, nn (R192): VF is not a flag here (D9). -/
def execAddVxNn (x : Reg) (nn : Byte) (s : State) : Result := .next (s.setReg x (s.reg x + nn))

/-- LD Vx, Vy (R193). -/
def execLdVxVy (x y : Reg) (s : State) : Result := .next (s.setReg x (s.reg y))

/-- OR Vx, Vy (R194). -/
def execOr (x y : Reg) (s : State) : Result := .next (s.setRegLogic x (s.reg x ||| s.reg y))

/-- AND Vx, Vy (R195). -/
def execAnd (x y : Reg) (s : State) : Result := .next (s.setRegLogic x (s.reg x &&& s.reg y))

/-- XOR Vx, Vy (R196). -/
def execXor (x y : Reg) (s : State) : Result := .next (s.setRegLogic x (s.reg x ^^^ s.reg y))

/-- ADD Vx, Vy (R197). -/
def execAddVxVy (x y : Reg) (s : State) : Result :=
  .next (s.setRegFlag x (s.reg x + s.reg y) (carryFlag (s.reg x) (s.reg y)))

/-- SUB Vx, Vy (R198). -/
def execSub (x y : Reg) (s : State) : Result :=
  .next (s.setRegFlag x (s.reg x - s.reg y) (noBorrowFlag (s.reg x) (s.reg y)))

/-- SHR Vx, Vy (R199). -/
def execShr (x y : Reg) (s : State) : Result :=
  .next (s.setRegFlag x (s.shiftSource x y >>> 1) (shiftedOutRight (s.shiftSource x y)))

/-- SUBN Vx, Vy (R200). -/
def execSubn (x y : Reg) (s : State) : Result :=
  .next (s.setRegFlag x (s.reg y - s.reg x) (noBorrowFlag (s.reg y) (s.reg x)))

/-- SHL Vx, Vy (R201). -/
def execShl (x y : Reg) (s : State) : Result :=
  .next (s.setRegFlag x (s.shiftSource x y <<< 1) (shiftedOutLeft (s.shiftSource x y)))

/-- RND Vx, nn (R202): the draw is a free value, and the counter moves on (D22; log 4). -/
def execRnd (x : Reg) (nn : Byte) (s : State) : Result :=
  .next { s.setReg x (Config.freeByte s.draws &&& nn) with draws := s.draws + 1 }

end Sys2Proof.Machine
end

