-- ==== Sys2Proof/Machine/Chip8E.lean ====
section
/-! DEFINITION. The CHIP-8E family (46_chip8e.md R330 to R339). A machine without the family, or with an empty sixth encoding,
has no word for these instructions: the word is illegal and faults DECODE (R330, R338, R401). -/

namespace Sys2Proof.Machine

/-- The meaning of a CHIP-8E operation where the family is enabled, and DECODE where it is not (R330). -/
def withC8E (s : State) (k : C8E → Result) : Result :=
  match s.cfg.c8e with
  | some p => k p
  | none => raise .decode none s

/-- C8E_SKS (R333). -/
def execC8eSks (x y : Reg) (s : State) : Result :=
  withC8E s fun p => .next (s.skipIf (relHolds p.skipRel (s.reg x).toInt (s.reg y).toInt))

/-- C8E_MUL (R334). -/
def execC8eMul (x y : Reg) (s : State) : Result :=
  withC8E s fun p =>
    let h := mulHalves p.mulVfHalf (s.reg x) (s.reg y)
    .next (s.setRegFlag x h.1 h.2)

/-- C8E_DIV (R335). -/
def execC8eDiv (x y : Reg) (s : State) : Result :=
  withC8E s fun p =>
    if s.reg y = 0#8 then raise .divZero none s
    else
      let d := divParts p.divResult (s.reg x) (s.reg y)
      .next (s.setRegFlag x d.1 d.2)

/-- C8E_BCD16 (R336). -/
def execC8eBcd16 (x y : Reg) (s : State) : Result :=
  withC8E s fun p =>
    checked .data s.i.toNat 5 s
      (.next (s.storeBytes s.i.toNat (decimalDigits (bcdSource p.bcdSource s x y).toNat 5)))

/-- C8E_ASCII (R337): the scratch write is the only write below 0x200, and no range check applies to it. -/
def execC8eAscii (x y : Reg) (s : State) : Result :=
  withC8E s fun p =>
    operandCheck ((s.reg x).toNat ≤ 63) s
      (.next { (s.storeBytes p.asciiScratch (asciiGlyph p (s.reg x))).setI (BitVec.ofNat 12 p.asciiScratch) with
        v := asciiResultRegs p s.v x y })

/-- C8E_OP6 (R338): the reading the spec calls likely, or a free effect on the general registers, `I` and a skip
(log 15). -/
def execC8eOp6 (x y : Reg) (s : State) : Result :=
  withC8E s fun p =>
    match p.op6 with
    | none => raise .decode none s
    | some op =>
      match op.meaning with
      | .signedSkip rel => .next (s.skipIf (relHolds rel (s.reg x).toInt (s.reg y).toInt))
      | .other =>
        let e := Config.c8eOp6 s.v s.i x y
        .next (State.skipIf { s with v := e.v, i := e.i } e.skip)

end Sys2Proof.Machine
end

