-- ==== Sys2Proof/Machine/ControlFlow.lean ====
section
/-! DEFINITION. Control flow and skips (41_control_flow.md R160 to R168). Each meaning runs with `pc` at the instruction's own
address (R136). -/

namespace Sys2Proof.Machine

/-- SYS nnn: no operation (R160, D2). -/
def execSys (_nnn : Addr) (s : State) : Result := .next s

/-- RET (R161): `pc` becomes the address of the CALL. -/
def execRet (s : State) : Result :=
  if s.sp = 0 then raise .stackUnderflow none s
  else .next { s with sp := s.sp - 1, pc := s.stack.getD (s.sp - 1) 0#12 }

/-- JP nnn (R162). -/
def execJp (nnn : Addr) (s : State) : Result := .next (s.goto nnn.toNat)

/-- CALL nnn (R163): the entry pushed is the call's own address. A depth above `STACK_MAX`, which no run reaches, faults as
`STACK_MAX` does (log 10). -/
def execCall (nnn : Addr) (s : State) : Result :=
  if s.cfg.stackMax ≤ s.sp then raise .stackOverflow none s
  else .next (State.goto { s with stack := s.stack.setIfInBounds s.sp s.pc, sp := s.sp + 1 } nnn.toNat)

/-- SE Vx, nn (R164). -/
def execSeVxNn (x : Reg) (nn : Byte) (s : State) : Result := .next (s.skipIf (s.reg x == nn))

/-- SNE Vx, nn (R165). -/
def execSneVxNn (x : Reg) (nn : Byte) (s : State) : Result := .next (s.skipIf (s.reg x != nn))

/-- SE Vx, Vy (R166). -/
def execSeVxVy (x y : Reg) (s : State) : Result := .next (s.skipIf (s.reg x == s.reg y))

/-- SNE Vx, Vy (R167). -/
def execSneVxVy (x y : Reg) (s : State) : Result := .next (s.skipIf (s.reg x != s.reg y))

/-- JP V0, nnn (R168): the target is a natural number, and the offset register depends on the profile. -/
def execJpV0 (nnn : Addr) (s : State) : Result :=
  .next (s.goto (nnn.toNat + (s.reg (offsetReg s.cfg nnn)).toNat))

end Sys2Proof.Machine
end

