-- ==== Sys2Proof/Machine/Gpu.lean ====
section
/-! DEFINITION. The framebuffer engine (44_display.md R260 to R270). -/

namespace Sys2Proof.Machine

/-- The pixel `fb[x][y]`; false outside the grid. -/
def pixel (fb : Framebuffer) (x y : Nat) : Bool := ((fb[y]?).getD [])[x]?.getD false

/-- The `w × h` grid whose pixel `(x, y)` is `f x y`. -/
def grid (w h : Nat) (f : Nat → Nat → Bool) : Framebuffer :=
  (List.range h).map fun y => (List.range w).map fun x => f x y

/-- `fb[x][y] := not fb[x][y]`. -/
def toggle (fb : Framebuffer) (x y : Nat) : Framebuffer := fb.modify y fun row => row.modify x not

/-- The destination of a sprite pixel whose unreduced place is `(px, py)`: dropped off the grid in Clip mode (R263), reduced
modulo the grid in Wrap mode (R264). -/
def spriteDest (mode : SpriteMode) (w h px py : Nat) : Option (Nat × Nat) :=
  match mode with
  | .clip => if px < w ∧ py < h then some (px, py) else none
  | .wrap => some (px % w, py % h)

/-- The destinations of row `r` of a sprite at `(x0, y0)`: its set bits, bit `wbits − 1` being column 0 (R262). -/
def rowDests (mode : SpriteMode) (w h x0 y : Nat) (row wbits : Nat) : List (Nat × Nat) :=
  (List.range wbits).filterMap fun c =>
    if row.testBit (wbits - 1 - c) then spriteDest mode w h (x0 + c) y else none

/-- The destinations of a whole sprite, row by row (R262). -/
def spriteDests (mode : SpriteMode) (w h x0 y0 : Nat) (wbits : Nat) : List Nat → List (Nat × Nat)
  | [] => []
  | row :: rows => rowDests mode w h x0 y0 row wbits ++ spriteDests mode w h x0 (y0 + 1) wbits rows

/-- The loop of `Gpu.draw` over the destinations: each pixel is toggled, and a set one that is unset counts as a collision
(R262, R265). -/
def togglePixels (fb : Framebuffer) (coll : Bool) : List (Nat × Nat) → Framebuffer × Bool
  | [] => (fb, coll)
  | (px, py) :: ps => togglePixels (toggle fb px py) (coll || pixel fb px py) ps

/-- `Gpu.draw(x, y, rows, wbits)` on a grid with an effective size of `w × h` (R262): the grid after it and the collision. The
origin is reduced modulo the effective grid first. -/
def gpuDraw (mode : SpriteMode) (w h : Nat) (fb : Framebuffer) (x y : Nat) (rows : List Nat) (wbits : Nat) :
    Framebuffer × Bool :=
  togglePixels fb false (spriteDests mode w h (x % w) (y % h) wbits rows)

/-- The directions of a scroll (R266). No instruction scrolls up (R267). -/
inductive Direction
  | down
  | up
  | left
  | right
  deriving DecidableEq, Repr

/-- `Gpu.scroll(dir, k)` on a `bw × bh` backing grid (R266). -/
def gpuScroll (bw bh : Nat) (dir : Direction) (k : Nat) (fb : Framebuffer) : Framebuffer :=
  grid bw bh fun x y =>
    match dir with
    | .down => if k ≤ y then pixel fb x (y - k) else false
    | .up => if y + k < bh then pixel fb x (y + k) else false
    | .right => if k ≤ x then pixel fb (x - k) y else false
    | .left => if x + k < bw then pixel fb (x + k) y else false

/-- The whole backing grid unset (R268). -/
def blankGrid (bw bh : Nat) : Framebuffer := List.replicate bh (List.replicate bw false)

/-- `Gpu.clear()` (R269): the effective `w × h` grid is unset, and every other backing pixel takes its value from `junk`. -/
def gpuClear (bw bh w h : Nat) (junk : Nat → Nat → Bool) : Framebuffer :=
  grid bw bh fun x y => if x < w ∧ y < h then false else junk x y

/-- `Gpu.draw` on the state's effective grid. -/
def State.draw (s : State) (x y : Byte) (rows : List Nat) (wbits : Nat) : State × Bool :=
  let d := gpuDraw s.cfg.spriteMode (s.cfg.effW s.hires) (s.cfg.effH s.hires) s.fb x.toNat y.toNat rows wbits
  ({ s with fb := d.1 }, d.2)

/-- `Gpu.scroll` on the state's backing grid. -/
def State.scroll (s : State) (dir : Direction) (k : Nat) : State :=
  { s with fb := gpuScroll s.cfg.backW s.cfg.backH dir k s.fb }

/-- `Gpu.setMode(m)` (R268): the whole backing grid is cleared, also when the mode does not change (D15). -/
def State.setMode (s : State) (m : Bool) : State :=
  { s with hires := m, fb := blankGrid s.cfg.backW s.cfg.backH }

/-- `Gpu.clear` on the state's effective grid. The pixels outside it are free values of this draw number, which the counter
then leaves behind (R269, D16; log 5). -/
def State.clear (s : State) : State :=
  { s with
    fb := gpuClear s.cfg.backW s.cfg.backH (s.cfg.effW s.hires) (s.cfg.effH s.hires) (Config.freePixel s.draws)
    draws := s.draws + 1 }

end Sys2Proof.Machine
end

