-- ==== Sys2Proof/Machine/Display.lean ====
section
/-! DEFINITION. The display instructions of the baseline family (44_display.md R280 to R282). -/

namespace Sys2Proof.Machine

/-- Drawing rows at `(V[x], V[y])` and writing the collision flag, after the coordinates are read (R281, R282). -/
def drawRows (x y : Reg) (rows : List Nat) (wbits : Nat) (s : State) : Result :=
  let d := s.draw (s.reg x) (s.reg y) rows wbits
  .next (d.1.setReg VF (collisionFlag d.2))

/-- CLS (R280). -/
def execCls (s : State) : Result := .next s.clear

/-- DRW Vx, Vy, n (R281). -/
def execDrw (x y : Reg) (n : Nibble) (s : State) : Result :=
  checked .sprite s.i.toNat n.toNat s (drawRows x y (s.rows8 s.i.toNat n.toNat) 8 s)

/-- DRW Vx, Vy, 0 (R282): PROFILE under Vip; 16 rows of 16 bits in hi-res and of 8 bits in low-res under SChip. -/
def execDrw16 (x y : Reg) (s : State) : Result :=
  match s.cfg.profile with
  | .vip => raise .profile none s
  | .sChip =>
    if s.hires then checked .sprite s.i.toNat 32 s (drawRows x y (s.rows16 s.i.toNat 16) 16 s)
    else checked .sprite s.i.toNat 16 s (drawRows x y (s.rows8 s.i.toNat 16) 8 s)

end Sys2Proof.Machine
end

