-- ==== Sys2Proof/Machine/Keypad.lean ====
section
/-! DEFINITION. The keypad operations (60_exceptions.md R430 to R433). -/

namespace Sys2Proof.Machine

/-- `Keypad.isDown(k)` (R431), and membership in any set of keys. -/
def KeySet.has (ks : KeySet) (k : Nibble) : Bool := ks[k.toNat]'k.isLt

/-- The empty set. -/
def KeySet.empty : KeySet := Vector.replicate 16 false

/-- `ks ∪ {k}` (R433). -/
def KeySet.insert (ks : KeySet) (k : Nibble) : KeySet := ks.set k.toNat true k.isLt

/-- All 16 key codes. -/
def allKeys : List Nibble := (List.range 16).map (BitVec.ofNat 4)

/-- The keys of a set, in rising order. -/
def KeySet.keys (ks : KeySet) : List Nibble := allKeys.filter ks.has

/-- `Keypad.query()` (R432): the next `armed`, and the key reported. -/
def keypadQuery (down : KeySet) (armed : Bool) : Bool × Option Nibble :=
  match down.keys with
  | [] => (true, none)
  | [k] => if armed then (false, some k) else (armed, none)
  | _ :: _ :: _ => (armed, none)

end Sys2Proof.Machine
end

