-- ==== Sys2Proof/Machine/Timer.lean ====
section
/-! DEFINITION. The timer operations (60_exceptions.md R420 to R423). -/

namespace Sys2Proof.Machine

/-- `Timer.set(v, now)` (R420). -/
def timerSet (v : Byte) (now : Nat) : TimerCapture :=
  if v = 0#8 then .idle else .running v now

/-- The whole ticks from `t0` to `now` (R421): truncated subtraction, division rounded down. -/
def elapsedTicks (tickUs t0 now : Nat) : Nat := (now - t0) / tickUs

/-- `Timer.get(t, now)` (R421): the capture after the read, and the value read. -/
def timerGet (tickUs : Nat) (t : TimerCapture) (now : Nat) : TimerCapture × Byte :=
  match t with
  | .idle => (.idle, 0#8)
  | .running v t0 =>
    if v.toNat ≤ elapsedTicks tickUs t0 now then (.idle, 0#8)
    else (.running v t0, BitVec.ofNat 8 (v.toNat - elapsedTicks tickUs t0 now))

end Sys2Proof.Machine
end

