-- ==== Sys2Proof/Machine/MemTimerKey.lean ====
section
/-! DEFINITION. Address register, memory transfers, timers and keys (43_memory_timer_key.md R220 to R231). -/

namespace Sys2Proof.Machine

/-- LD I, nnn (R220). -/
def execLdI (nnn : Addr) (s : State) : Result := .next (s.setI nnn)

/-- ADD I, Vx (R221): 12 bits, so it wraps (D10). -/
def execAddIVx (x : Reg) (s : State) : Result := .next (s.setI (s.i + (s.reg x).setWidth 12))

/-- LD F, Vx (R222). -/
def execLdF (x : Reg) (s : State) : Result :=
  operandCheck ((s.reg x).toNat ≤ 15) s (.next (s.setI (fontLoAddr s.cfg (s.reg x))))

/-- LD B, Vx (R223). -/
def execLdB (x : Reg) (s : State) : Result :=
  checked .data s.i.toNat 3 s (.next (s.storeBytes s.i.toNat (decimalDigits (s.reg x).toNat 3)))

/-- LD [I], Vx (R224). -/
def execLdMiVx (x : Reg) (s : State) : Result :=
  checked .data s.i.toNat (x.toNat + 1) s (.next ((s.storeBytes s.i.toNat (s.regsUpTo x)).bumpI x))

/-- LD Vx, [I] (R225). -/
def execLdVxMi (x : Reg) (s : State) : Result :=
  checked .data s.i.toNat (x.toNat + 1) s
    (.next (State.bumpI { s with v := setFrom s.v 0 (s.bytes s.i.toNat (x.toNat + 1)) } x))

/-- LD Vx, DT (R226): the read may make DT idle (R422). -/
def execLdVxDt (x : Reg) (s : State) : Result :=
  let g := timerGet s.cfg.tickUs s.dt s.now
  .next (State.setReg { s with dt := g.1 } x g.2)

/-- LD DT, Vx (R227). -/
def execLdDtVx (x : Reg) (s : State) : Result := .next { s with dt := timerSet (s.reg x) s.now }

/-- LD ST, Vx (R228). -/
def execLdStVx (x : Reg) (s : State) : Result := .next { s with st := timerSet (s.reg x) s.now }

/-- The key register `V[x]`, checked to be a key code, and the hint (R229, R230). -/
def withKey (x : Reg) (s : State) (k : Nibble → State → Result) : Result :=
  let key : Nibble := (s.reg x).setWidth 4
  operandCheck ((s.reg x).toNat ≤ 15) s (k key { s with hints := s.hints.insert key })

/-- SKP Vx (R229). -/
def execSkp (x : Reg) (s : State) : Result :=
  withKey x s fun key t => .next (t.skipIf (t.down.has key))

/-- SKNP Vx (R230). -/
def execSknp (x : Reg) (s : State) : Result :=
  withKey x s fun key t => .next (t.skipIf (!t.down.has key))

/-- LD Vx, K (R231): with no key reported, `pc` is rewound and the next step fetches this instruction again (R142). -/
def execLdVxK (x : Reg) (s : State) : Result :=
  let q := keypadQuery s.down s.armed
  let t := { s with armed := q.1 }
  match q.2 with
  | some k => .next (t.setReg x (k.setWidth 8))
  | none => .next t.rewind

end Sys2Proof.Machine
end

