-- ==== Sys2Proof/Machine/SuperChip.lean ====
section
/-! DEFINITION. The SUPER-CHIP family (45_superchip.md R300 to R308). -/

namespace Sys2Proof.Machine

/-- SCD n (R300). -/
def execScd (n : Nibble) (s : State) : Result :=
  operandCheck (n != 0#4) s (.next (s.scroll .down n.toNat))

/-- SCR (R301): 4 backing columns (D17). -/
def execScr (s : State) : Result := .next (s.scroll .right 4)

/-- SCL (R302): 4 backing columns (D17). -/
def execScl (s : State) : Result := .next (s.scroll .left 4)

/-- EXIT (R303). -/
def execExit (s : State) : Result := .next { s with halted := true }

/-- LOW (R304). -/
def execLow (s : State) : Result := .next (s.setMode false)

/-- HIGH (R305). -/
def execHigh (s : State) : Result := .next (s.setMode true)

/-- LD HF, Vx (R306). -/
def execLdHf (x : Reg) (s : State) : Result :=
  operandCheck ((s.reg x).toNat ≤ 15) s (.next (s.setI (fontHiAddr s.cfg (s.reg x))))

/-- LD R, Vx (R307). -/
def execLdRVx (x : Reg) (s : State) : Result :=
  operandCheck (x.toNat ≤ 7) s (.next { s with rpl := setFrom s.rpl 0 (s.regsUpTo x) })

/-- LD Vx, R (R308). -/
def execLdVxR (x : Reg) (s : State) : Result :=
  operandCheck (x.toNat ≤ 7) s (.next { s with v := setFrom s.v 0 (s.rplUpTo x) })

end Sys2Proof.Machine
end

