-- ==== Sys2Proof/Machine/HostOps.lean ====
section
/-! DEFINITION. What the host does between steps and what it reads (60_exceptions.md R430, R440; 70_reset_and_hazards.md R502,
R503; 44_display.md R270; 60_exceptions.md R426). -/

namespace Sys2Proof.Machine

/-- The listed bytes of an image loaded at `a`, where unlisted addresses read as 0. -/
def imageCells (a : Nat) : List Byte → Memory
  | [] => []
  | b :: bs => if b = 0#8 then imageCells (a + 1) bs else (a, b) :: imageCells (a + 1) bs

/-- Memory after a reload (R503): below the program base as it was, the image at the program base, and 0 above it. -/
def reloadMemory (m : Memory) (image : List Byte) : Memory :=
  m.filter (fun c => decide (c.1 < programBase)) ++ imageCells programBase image

/-- The body of `reload(s)` (R503): the dynamic state from the stored image. The display, the keypad, the hints and RPL are kept
(D24). The last step's result is dropped (log 8). -/
def State.reinit (s : State) : State :=
  { s with
    v       := Vector.replicate 16 0#8
    i       := 0#12
    pc      := 0x1FE#12
    sp      := 0
    mem     := reloadMemory s.mem s.image
    progEnd := programBase + s.image.length
    dt      := .idle
    st      := .idle
    fault   := none
    halted  := false
    result  := none }

/-- `reload(s)` (R407, R503): LOAD_FAIL where the stored image is empty or does not fit. -/
def State.reload (s : State) : Except LoadError State :=
  if s.image.length = 0 then .error .empty
  else if s.cfg.memSize < programBase + s.image.length then .error .tooLarge
  else .ok s.reinit

/-- `load(rom)` (R407, R502): a reload of the new image, which a failed load does not keep. -/
def State.load (s : State) (rom : List Byte) : Except LoadError State := State.reload { s with image := rom }

/-- The state after a load or a reload, which is the state before it where that fails (R407). -/
def State.orKept (s : State) : Except LoadError State → State
  | .ok t => t
  | .error _ => s

/-- One action of the host (R440). -/
def State.hostAction (s : State) : HostAction → State
  | .clock now => { s with now := now }
  | .keys down => { s with down := down }
  | .load rom => s.orKept (s.load rom)
  | .reload => s.orKept s.reload

/-- The actions of one batch, in order. -/
def State.hostActions (s : State) : List HostAction → State
  | [] => s
  | a :: as => (s.hostAction a).hostActions as

/-- The state the next step finds: the batch of host actions that lands before it has been applied (D36; log 3). With no
batch left, the host does nothing. -/
def State.takeInputs (s : State) : State :=
  match s.inputs with
  | [] => s
  | batch :: rest => State.hostActions { s with inputs := rest } batch

/-- The sound signal (R426); the host's read does not store the capture. -/
def State.soundOn (s : State) (now : Nat) : Bool :=
  s.cfg.soundEnable && Config.soundOnRel (timerGet s.cfg.tickUs s.st now).2 s.cfg.soundThreshold

/-- The render snapshot (R270): the pixels of the effective grid, as rows. -/
def State.snapshot (s : State) : Framebuffer :=
  grid (s.cfg.effW s.hires) (s.cfg.effH s.hires) (pixel s.fb)

end Sys2Proof.Machine
end

