-- ==== Sys2Proof/Machine/Cycle.lean ====
section
/-! DEFINITION. The execution cycle (40_cycle.md R130 to R142): the increment, the fetch and its check, decoding, the step result,
and the placing of a word where the next step fetches. -/

namespace Sys2Proof.Machine

/-- The step's first act (R132). The result of the step before is dropped (log 8). -/
def State.advance (s : State) : State := { s with pc := s.pc + 2#12, result := none }

/-- The fetch check (R133): the address is odd, below 0x200, or the word does not lie inside the program. -/
def fetchFails (s : State) : Bool :=
  s.pc.toNat % 2 != 0 || s.pc.toNat < programBase || s.progEnd < s.pc.toNat + 2

/-- The fetched word (R134). -/
def fetchWord (s : State) : Word := s.wordAt s.pc.toNat

/-- The instructions that are sync-sensitive (R138, D18). -/
def syncSensitive : Instr → Bool
  | .cls | .drw _ _ _ | .scd _ | .scr | .scl | .low | .high | .ldVxK _ => true
  | .sys _ | .ret | .jp _ | .call _ | .seVxNn _ _ | .sneVxNn _ _ | .seVxVy _ _ | .ldVxNn _ _ | .addVxNn _ _
  | .ldVxVy _ _ | .or _ _ | .and _ _ | .xor _ _ | .addVxVy _ _ | .sub _ _ | .shr _ _ | .subn _ _ | .shl _ _
  | .sneVxVy _ _ | .ldI _ | .jpV0 _ | .rnd _ _ | .drw16 _ _ | .skp _ | .sknp _ | .ldVxDt _ | .ldDtVx _
  | .ldStVx _ | .addIVx _ | .ldF _ | .ldB _ | .ldMiVx _ | .ldVxMi _ | .exit
  | .ldHf _ | .ldRVx _ | .ldVxR _ | .c8eSks _ _ | .c8eMul _ _ | .c8eDiv _ _ | .c8eBcd16 _ _ | .c8eAscii _ _
  | .c8eOp6 _ _ => false

/-- `needs_sync` (R138). -/
def needsSync (c : Config) (i : Instr) : Bool := c.profile == .vip && syncSensitive i

/-- The step result of an instruction (R137 to R139): `exit_requested` is true exactly for 00FD. -/
def stepResult (c : Config) (i : Instr) : StepResult := { needsSync := needsSync c i, exitRequested := i == .exit }

/-- The state a step leaves: with the step result if the instruction did not fault (R137, R141). -/
def State.finish (s : State) (i : Instr) : State :=
  match s.fault with
  | none => { s with result := some (stepResult s.cfg i) }
  | some _ => s

/-- The outcome of a step from the outcome of its instruction. -/
def finish (i : Instr) : Result → Result
  | .next t => .next (t.finish i)
  | .fault f => .fault f
  | .refused r => .refused r

/-- Decoding and execution of the fetched word, with `pc` at its address (R135, R136). -/
def runFetched (s : State) : Result :=
  match decode s.cfg (fetchWord s) with
  | .error _ => .next (s.takeFault .decode (some (fetchWord s)) none)
  | .ok i => finish i (exec i s)

/-- The step after its increment: the fetch check, then the fetched instruction (R133 to R136). -/
def runAdvanced (s : State) : Result :=
  if fetchFails s then .next (s.takeFault .fetchRange none none) else runFetched s

/-- The Cpu's step (R141) in the state the host has left. A faulted or halted state has no step (R131). -/
def cpuStep (s : State) : Result :=
  if s.fault.isSome then .fault .stepWhileFaulted
  else if s.halted then .fault .stepWhileHalted
  else runAdvanced s.advance

/-- The whole step: the host's batch of actions lands (R440, D36), then the Cpu steps. -/
def hostThenStep (s : State) : Result := cpuStep s.takeInputs

/-- Whether a word placed at an address can be fetched there. -/
def fetchable (c : Config) (a : Nat) : Bool :=
  a % 2 == 0 && programBase ≤ a && a + 2 ≤ c.memSize

/-- Where the next step fetches (R132), or the program base where nothing can be fetched there. -/
def nextFetch (s : State) : Nat :=
  let a := (s.pc + 2#12).toNat
  if fetchable s.cfg a then a else programBase

/-- The word stands where the next step fetches, inside the program, on a machine that can step and that no pending host action
changes first (log 18). -/
def placeWord (s : State) (w : Word) : State :=
  let a := nextFetch s
  { s.storeBytes a (bytesOfWord w) with
    pc      := BitVec.ofNat 12 a - 2#12
    progEnd := max s.progEnd (a + 2)
    halted  := false
    fault   := none
    inputs  := [] }

end Sys2Proof.Machine
end

