-- ==== Sys2Proof/Machine/Step.lean ====
section
/-! DEFINITION. The step function and the placing of a word where it fetches; both only call Machine/Cycle.lean. -/

namespace Sys2Proof.Machine

/-- One step of the machine (40_cycle.md R141). -/
def step (s : State) : Host.Outcome State Fault Refusal := hostThenStep s

/-- The state with a table row's bits stored where the step fetches next (log 18). An instruction is one 16-bit word. -/
def State.withFetchWord (s : State) (nbits w : Nat) : State := placeWord s (BitVec.ofNat 16 (w % 2 ^ nbits))

end Sys2Proof.Machine
end

