-- ==== Sys2Proof/Safety.lean ====
section
/-! DEFINITION. What counts as a safe run, in the terms the statements use: a ready state, an instruction that completes, and the
invariant of every run (10_state.md R30 to R47, 60_exceptions.md R402). -/

namespace Sys2Proof.Machine

/-- The machine can step: no fault and not halted (R131). -/
def State.Ready (s : State) : Prop := s.fault = none ∧ s.halted = false

/-- A safe outcome: a next state without a fault (R402: a faulted state is never a final state of a correct run). -/
def Safe (r : Result) : Prop := ∃ t, r = .next t ∧ t.fault = none

/-- A timer that is not idle holds a start value in 1..255 (R37). -/
def TimerCapture.Positive : TimerCapture → Prop
  | .idle => True
  | .running v _ => v ≠ 0#8

/-- The backing grid has its size (R38). -/
def State.GridSized (s : State) : Prop :=
  s.fb.length = s.cfg.backH ∧ ∀ row ∈ s.fb, row.length = s.cfg.backW

/-- The fault record of a faulted machine (R402): it names the address in `pc`, its word is missing for FETCH_RANGE only, and it
has an offending address for MEM_RANGE only. -/
def FaultRecord.Proper (r : FaultRecord) (pc : Addr) : Prop :=
  r.fetchAddr = pc ∧ (r.word = none ↔ r.code = .fetchRange) ∧ (r.addr = none ↔ r.code ≠ .memRange)

/-- The invariant of every run. -/
structure State.Inv (s : State) : Prop where
  /-- The configuration is one the spec allows (R8, R106, R337). -/
  cfg      : s.cfg.Valid
  /-- Memory has its canonical form and lies below `MEM_SIZE` (R70). -/
  mem      : Memory.wf s.cfg.memSize s.cfg.initByte s.mem
  /-- The stack depth is at most `STACK_MAX` (R35). -/
  sp       : s.sp ≤ s.cfg.stackMax
  /-- The program region ends between the program base and the end of memory (R46). -/
  progLo   : programBase ≤ s.progEnd
  progHi   : s.progEnd ≤ s.cfg.memSize
  /-- The stored image fits the program region (R407). -/
  image    : programBase + s.image.length ≤ s.cfg.memSize
  /-- The backing grid has its size (R38). -/
  grid     : s.GridSized
  /-- Captured start values are in 1..255 (R37). -/
  dt       : s.dt.Positive
  st       : s.st.Positive
  /-- A fault leaves a proper record and no step result (R137, R402). -/
  fault    : ∀ r, s.fault = some r → r.Proper s.pc ∧ s.result = none
  /-- Only 00FD requests the exit, and it halts the machine (R139). -/
  halted   : ∀ r, s.result = some r → r.exitRequested = s.halted

end Sys2Proof.Machine
end

