-- ==== Sys2Proof/Certificates/Slice0/Obligations.lean ====
section
/-! DEFINITION. The statements for the provers. Each docstring names the rules of spec/ it formalises, and the log entry of any
choice of the model that it rests on. -/

namespace Sys2Proof.Machine

/-! ## The terms of the statements -/

/-- The word stands for the instruction on every machine. -/
def Decodes (w : Word) (i : Instr) : Prop := ∀ cfg, decode cfg w = .ok i

/-- The instruction completes with the general registers given by `r`, and leaves everything else as it was. -/
def WritesRegs (i : Instr) (s : State) (r : Reg → Byte) : Prop :=
  ∃ t, exec i s = .next t ∧ (∀ z, t.reg z = r z) ∧ t = { s with v := t.v }

/-- The instruction faults with this code and offending address: a record of `pc` and some word, and nothing else (R402,
R403). Which word is recorded is stated of the step. -/
def FaultsWith (i : Instr) (s : State) (code : FaultCode) (addr : Option Nat) : Prop :=
  ∃ w, exec i s = .next { s with fault := some { code := code, fetchAddr := s.pc, word := some w, addr := addr } }

/-- The lowest address outside `[lo, hi)` of an access that starts at `a` and does not lie inside it (R78). -/
def lowestOutside (lo hi a : Nat) : Nat := if a < lo then a else max a hi

/-- Some set bit of the sprite has the pixel `(px, py)` as its destination (R262 to R264). -/
def Covers (mode : SpriteMode) (w h x0 y0 : Nat) (rows : List Nat) (wbits px py : Nat) : Prop :=
  ∃ r c, r < rows.length ∧ c < wbits ∧ (rows.getD r 0).testBit (wbits - 1 - c) = true ∧
    match mode with
    | .clip => px = x0 + c ∧ py = y0 + r ∧ px < w ∧ py < h
    | .wrap => px = (x0 + c) % w ∧ py = (y0 + r) % h

/-- `t` is `s` after the sprite `rows` was drawn at `(V[x], V[y])`: the covered pixels are inverted and no other, `VF` is the
collision, and nothing else changes (R262, R265, R281). -/
def DrawnFrom (s t : State) (x y : Reg) (rows : List Nat) (wbits : Nat) : Prop :=
  let w := s.cfg.effW s.hires
  let h := s.cfg.effH s.hires
  let cov := Covers s.cfg.spriteMode w h ((s.reg x).toNat % w) ((s.reg y).toNat % h) rows wbits
  (∀ px py, cov px py → pixel t.fb px py = !pixel s.fb px py) ∧
  (∀ px py, ¬ cov px py → pixel t.fb px py = pixel s.fb px py) ∧
  ((∃ px py, cov px py ∧ pixel s.fb px py = true) → t.reg VF = 1#8) ∧
  ((¬ ∃ px py, cov px py ∧ pixel s.fb px py = true) → t.reg VF = 0#8) ∧
  (∀ z, z ≠ VF → t.reg z = s.reg z) ∧
  t.GridSized ∧ t = { s with v := t.v, fb := t.fb }

/-- An instruction of the CHIP-8E family. -/
def IsC8E : Instr → Prop
  | .c8eSks _ _ | .c8eMul _ _ | .c8eDiv _ _ | .c8eBcd16 _ _ | .c8eAscii _ _ | .c8eOp6 _ _ => True
  | .sys _ | .cls | .ret | .jp _ | .call _ | .seVxNn _ _ | .sneVxNn _ _ | .seVxVy _ _ | .ldVxNn _ _ | .addVxNn _ _
  | .ldVxVy _ _ | .or _ _ | .and _ _ | .xor _ _ | .addVxVy _ _ | .sub _ _ | .shr _ _ | .subn _ _ | .shl _ _
  | .sneVxVy _ _ | .ldI _ | .jpV0 _ | .rnd _ _ | .drw _ _ _ | .drw16 _ _ | .skp _ | .sknp _ | .ldVxDt _ | .ldVxK _
  | .ldDtVx _ | .ldStVx _ | .addIVx _ | .ldF _ | .ldB _ | .ldMiVx _ | .ldVxMi _ | .scd _ | .scr | .scl | .exit | .low
  | .high | .ldHf _ | .ldRVx _ | .ldVxR _ => False

end Sys2Proof.Machine

section
open Sys2Proof Sys2Proof.Machine

/-! ## Encoding -/

/-- Eleven words written out from spec/opcode_table.json decode to their instructions, and the bytes 6A 05 in memory order are the
word 6A05 (R79, R104). -/
def Obligations.DecodeReadsSampleWords : Prop :=
  Decodes 0x6A05#16 (.ldVxNn 0xA 0x05) ∧ Decodes 0x0000#16 (.sys 0x000) ∧ Decodes 0x00E0#16 .cls ∧
  Decodes 0x2206#16 (.call 0x206) ∧ Decodes 0x8124#16 (.addVxVy 1 2) ∧ Decodes 0xD015#16 (.drw 0 1 5) ∧
  Decodes 0xD010#16 (.drw16 0 1) ∧ Decodes 0xE39E#16 (.skp 3) ∧ Decodes 0xF465#16 (.ldVxMi 4) ∧
  Decodes 0x00C3#16 (.scd 3) ∧ Decodes 0xF275#16 (.ldRVx 2) ∧ wordOfBytes 0x6A#8 0x05#8 = 0x6A05#16

/-- Every well-formed instruction of every family has a word, and its bytes decode to it, on every machine whose CHIP-8E
encodings meet R106 (R100, R101, R104, R106). -/
def Obligations.EncodeThenDecodeGivesTheInstruction : Prop :=
  ∀ (cfg : Config) (i : Instr) (rest : List Byte), (∀ p, cfg.c8e = some p → p.EncodingsValid) →
    i.wellFormed cfg = true →
    ∃ w, encode cfg i = some w ∧ decode cfg w = .ok i ∧ decodeBytes cfg (bytesOfWord w ++ rest) = .ok (i, rest)

/-- What decodes is well formed. A word of the baseline and SUPER-CHIP families is the word of its instruction: no bit of it is
dropped. A word that those families leave illegal can only be a CHIP-8E instruction, and is the word of that instruction where the
CHIP-8E rows fix every bit outside the fields `x` and `y` (R101, R104); a row with an unmasked low bit gives one instruction two
words. -/
def Obligations.DecodedInstructionIsWellFormedAndReencodes : Prop :=
  ∀ (cfg : Config) (w : Word) (i : Instr), decode cfg w = .ok i →
    i.wellFormed cfg = true ∧
    (decodeBase w = .ok i → encode cfg i = some w) ∧
    ((∃ e, decodeBase w = .error e) → IsC8E i ∧
      ((∀ p, cfg.c8e = some p → ∀ r ∈ p.rows, r.mask &&& 0xF00F#16 = 0xF00F#16) → encode cfg i = some w))

/-- The illegal words are those of the five groups of R105, less those a CHIP-8E row claims where the family is enabled. -/
def Obligations.IllegalWordsAreTheFiveGroups : Prop :=
  ∀ (cfg : Config) (w : Word),
    (∃ e, decode cfg w = .error e) ↔
    ((w.extractLsb' 12 4 = 0x5#4 ∧ w.extractLsb' 0 4 ≠ 0#4) ∨
     (w.extractLsb' 12 4 = 0x8#4 ∧ w.extractLsb' 0 4 ∈ [0x8#4, 0x9#4, 0xA#4, 0xB#4, 0xC#4, 0xD#4, 0xF#4]) ∨
     (w.extractLsb' 12 4 = 0x9#4 ∧ w.extractLsb' 0 4 ≠ 0#4) ∨
     (w.extractLsb' 12 4 = 0xE#4 ∧ w.extractLsb' 0 8 ∉ [0x9E#8, 0xA1#8]) ∨
     (w.extractLsb' 12 4 = 0xF#4 ∧ w.extractLsb' 0 8 ∉
        [0x07#8, 0x0A#8, 0x15#8, 0x18#8, 0x1E#8, 0x29#8, 0x30#8, 0x33#8, 0x55#8, 0x65#8, 0x75#8, 0x85#8])) ∧
    ¬ (∃ p r, cfg.c8e = some p ∧ r ∈ p.rows ∧ r.matches w = true)

/-! ## The cycle -/

/-- A step on a ready machine is the decoded instruction, run with `pc` increased by 2 and pointing at it, and then the step
result if it did not fault; `b` is the state the host's actions leave (R132 to R137, R141). The dropping of the old result
when a step begins is the model's (log 8). -/
def Obligations.StepRunsTheDecodedInstruction : Prop :=
  ∀ (s b a : State) (i : Instr), b = s.takeInputs → b.Ready → a = { b with pc := b.pc + 2#12, result := none } →
    a.pc.toNat % 2 = 0 → 0x200 ≤ a.pc.toNat → a.pc.toNat + 2 ≤ a.progEnd →
    decode a.cfg (a.byte a.pc.toNat ++ a.byte (a.pc.toNat + 1)) = .ok i →
    ∃ t, exec i a = .next t ∧
      step s = .next (if t.fault = none then { t with result := some (stepResult t.cfg i) } else t)

/-- A step on a ready machine faults FETCH_RANGE exactly when its fetch address is odd, below 0x200, or its word does not lie
inside the program (R132, R133, R402). -/
def Obligations.FetchOutsideProgramFaultsFetchRange : Prop :=
  ∀ (s b : State), b = s.takeInputs → b.Ready →
    ((b.pc + 2#12).toNat % 2 ≠ 0 ∨ (b.pc + 2#12).toNat < 0x200 ∨ (b.pc + 2#12).toNat + 2 > b.progEnd ↔
     ∃ t, step s = .next t ∧ t.fault = some { code := .fetchRange, fetchAddr := b.pc + 2#12, word := none, addr := none } ∧
       t.pc = b.pc + 2#12)

/-- A step that fetches an illegal word faults DECODE and records that word (R105, R135, R402). -/
def Obligations.IllegalWordFaultsDecode : Prop :=
  ∀ (s b : State) (w : Word) (e : Reject), b = s.takeInputs → b.Ready →
    (b.pc + 2#12).toNat % 2 = 0 → 0x200 ≤ (b.pc + 2#12).toNat → (b.pc + 2#12).toNat + 2 ≤ b.progEnd →
    w = b.byte (b.pc + 2#12).toNat ++ b.byte ((b.pc + 2#12).toNat + 1) → decode b.cfg w = .error e →
    ∃ t, step s = .next t ∧
      t = { b with
        pc := b.pc + 2#12, result := t.result
        fault := some { code := .decode, fetchAddr := b.pc + 2#12, word := some w, addr := none } }

/-- A faulted or halted machine has no step, and no action of the host but a reload or a load that succeeds leads out of such a
state (R131). -/
def Obligations.FaultedOrHaltedMachineHasNoStep : Prop :=
  (∀ s b : State, b = s.takeInputs → b.fault ≠ none → step s = .fault .stepWhileFaulted) ∧
  (∀ s b : State, b = s.takeInputs → b.fault = none → b.halted = true → step s = .fault .stepWhileHalted) ∧
  (∀ (s : State) (a : HostAction), ¬ s.Ready → (s.hostAction a).Ready →
    (a = .reload ∧ ∃ t, s.reload = .ok t) ∨ ∃ rom t, a = .load rom ∧ s.load rom = .ok t)

/-- `needs_sync` is true exactly under Vip for the listed instructions, and `exit_requested` exactly for 00FD; a step that does
not fault returns that result (R137 to R139). -/
def Obligations.StepResultSignals : Prop :=
  (∀ (c : Config) (i : Instr), (stepResult c i).needsSync = true ↔ c.profile = .vip ∧
    (i = .cls ∨ (∃ x y n, i = .drw x y n) ∨ (∃ n, i = .scd n) ∨ i = .scr ∨ i = .scl ∨ i = .low ∨ i = .high ∨
      ∃ x, i = .ldVxK x)) ∧
  (∀ (c : Config) (i : Instr), (stepResult c i).exitRequested = true ↔ i = .exit) ∧
  (∀ s t : State, step s = .next t → t.fault = none → ∃ (a : State) (i : Instr),
    a = { s.takeInputs with pc := s.takeInputs.pc + 2#12, result := none } ∧
    decode a.cfg (a.byte a.pc.toNat ++ a.byte (a.pc.toNat + 1)) = .ok i ∧ t.result = some (stepResult t.cfg i))

/-- An instruction that faults has written nothing: its only trace is a proper record (R140, R401, R402). -/
def Obligations.FaultingInstructionWritesOnlyTheRecord : Prop :=
  ∀ (i : Instr) (s t : State), exec i s = .next t → s.fault = none → t.fault ≠ none →
    ∃ code addr, FaultsWith i s code addr ∧ (addr = none ↔ code ≠ .memRange) ∧ code ≠ .fetchRange

/-- Faults are precise: after a faulting step only `pc` (increased by 2) and the record differ from the state the step found,
and the record names the fetch address, the fetched word (none for FETCH_RANGE) and, for MEM_RANGE only, an address (R140,
R402, R403). The step's own result is left open here. -/
def Obligations.FaultingStepIsPrecise : Prop :=
  ∀ s t : State, step s = .next t → t.fault ≠ none → ∃ (b : State) (code : FaultCode) (word : Option Word) (addr : Option Nat),
    b = s.takeInputs ∧
    t = { b with
      pc := b.pc + 2#12, result := t.result
      fault := some { code := code, fetchAddr := b.pc + 2#12, word := word, addr := addr } } ∧
    (code = .fetchRange → word = none) ∧
    (code ≠ .fetchRange → word = some (b.byte (b.pc + 2#12).toNat ++ b.byte ((b.pc + 2#12).toNat + 1))) ∧
    (addr = none ↔ code ≠ .memRange)

/-- Every instruction executes in every state: `exec` never stops (R141: an instruction gives a state or a fault, and a fault is
a state; log 6). -/
def Obligations.EveryInstructionExecutes : Prop :=
  ∀ (i : Instr) (s : State), ∃ t, exec i s = .next t

/-! ## Whole-machine rules -/

/-- Every step keeps the invariant: canonical memory below `MEM_SIZE`, a legal stack depth, a legal program region, a grid of
its size, positive captures, proper fault records, and an exit request exactly on a halted machine (R35, R37, R38, R46, R70,
R139, R402, R407). -/
def Obligations.InvariantKeptByStep : Prop :=
  ∀ s t : State, s.Inv → step s = .next t → t.Inv

/-- Construction from any valid configuration gives the invariant, and so does reset (R500). -/
def Obligations.InvariantHoldsAtPowerOn : Prop :=
  (∀ c : Config, c.Valid → (State.powerOn c).Inv) ∧ State.reset.Inv

/-- The access table: each piece of state is written only by the instructions that the table names for it, each general register
only where it is a destination, the flag or in the list of a transfer, the fault record only by an instruction that has a fault
condition, and configuration, key set, program region, stored image and the host's data by none (R34 to R39, R41 to R47, R50,
R401). The reach of `C8E_ASCII_RESULT` (general registers only) and of the sixth CHIP-8E operation (general registers, `I`, a
skip) is the model's reading (logs 14, 15), and so are the fault of a CHIP-8E operation that the machine does not have (log 12) and
the draw counter (logs 4, 5). -/
def Obligations.InstructionsWriteOnlyTheirOwnState : Prop :=
  ∀ (i : Instr) (s t : State), exec i s = .next t →
    t.cfg = s.cfg ∧ t.down = s.down ∧ t.progEnd = s.progEnd ∧ t.image = s.image ∧ t.now = s.now ∧ t.inputs = s.inputs ∧
    t.result = s.result ∧
    (∀ z, t.reg z ≠ s.reg z →
      (∃ n, i = .ldVxNn z n ∨ i = .addVxNn z n ∨ i = .rnd z n) ∨ i = .ldVxDt z ∨ i = .ldVxK z ∨
      (∃ y, i = .ldVxVy z y ∨ i = .or z y ∨ i = .and z y ∨ i = .xor z y ∨ i = .addVxVy z y ∨ i = .sub z y ∨ i = .shr z y ∨
        i = .subn z y ∨ i = .shl z y ∨ i = .c8eMul z y ∨ i = .c8eDiv z y) ∨
      (∃ x, z.toNat ≤ x.toNat ∧ (i = .ldVxMi x ∨ i = .ldVxR x)) ∨
      (z = VF ∧ ∃ x y, i = .addVxVy x y ∨ i = .sub x y ∨ i = .shr x y ∨ i = .subn x y ∨ i = .shl x y ∨ i = .drw16 x y ∨
        i = .c8eMul x y ∨ i = .c8eDiv x y ∨ (∃ n, i = .drw x y n) ∨
        (s.cfg.profile = .vip ∧ (i = .or x y ∨ i = .and x y ∨ i = .xor x y))) ∨
      ∃ x y, i = .c8eAscii x y ∨ i = .c8eOp6 x y) ∧
    (t.fault ≠ s.fault → i = .ret ∨ (∃ n, i = .call n) ∨ (∃ x, i = .ldF x ∨ i = .ldHf x ∨ i = .skp x ∨ i = .sknp x) ∨
      (∃ x, i = .ldB x ∨ i = .ldMiVx x ∨ i = .ldVxMi x) ∨ (∃ x, 7 < x.toNat ∧ (i = .ldRVx x ∨ i = .ldVxR x)) ∨
      (∃ x y n, i = .drw x y n) ∨ (∃ x y, i = .drw16 x y) ∨ i = .scd 0#4 ∨
      (∃ x y, i = .c8eDiv x y ∨ i = .c8eBcd16 x y ∨ i = .c8eAscii x y) ∨ (s.cfg.c8e = none ∧ IsC8E i) ∨
      ∃ x y p, i = .c8eOp6 x y ∧ s.cfg.c8e = some p ∧ p.op6 = none) ∧
    (t.i ≠ s.i → (∃ n, i = .ldI n) ∨ (∃ x, i = .addIVx x) ∨ (∃ x, i = .ldF x) ∨ (∃ x, i = .ldHf x) ∨
      (s.cfg.profile = .vip ∧ ((∃ x, i = .ldMiVx x) ∨ ∃ x, i = .ldVxMi x)) ∨ (∃ x y, i = .c8eAscii x y) ∨
      ∃ x y, i = .c8eOp6 x y) ∧
    (t.pc ≠ s.pc → i = .ret ∨ (∃ n, i = .jp n) ∨ (∃ n, i = .call n) ∨ (∃ x n, i = .seVxNn x n) ∨
      (∃ x n, i = .sneVxNn x n) ∨ (∃ x y, i = .seVxVy x y) ∨ (∃ x y, i = .sneVxVy x y) ∨ (∃ n, i = .jpV0 n) ∨
      (∃ x, i = .skp x) ∨ (∃ x, i = .sknp x) ∨ (∃ x, i = .ldVxK x) ∨ (∃ x y, i = .c8eSks x y) ∨
      ∃ x y, i = .c8eOp6 x y) ∧
    (t.sp ≠ s.sp → i = .ret ∨ ∃ n, i = .call n) ∧
    (t.stack ≠ s.stack → ∃ n, i = .call n) ∧
    (t.rpl ≠ s.rpl → ∃ x, i = .ldRVx x) ∧
    (t.dt ≠ s.dt → (∃ x, i = .ldDtVx x) ∨ ∃ x, i = .ldVxDt x) ∧
    (t.st ≠ s.st → ∃ x, i = .ldStVx x) ∧
    (t.fb ≠ s.fb → i = .cls ∨ (∃ x y n, i = .drw x y n) ∨ (∃ x y, i = .drw16 x y) ∨ (∃ n, i = .scd n) ∨ i = .scr ∨
      i = .scl ∨ i = .low ∨ i = .high) ∧
    (t.hires ≠ s.hires → i = .low ∨ i = .high) ∧
    (t.armed ≠ s.armed → ∃ x, i = .ldVxK x) ∧
    (t.hints ≠ s.hints → (∃ x, i = .skp x) ∨ ∃ x, i = .sknp x) ∧
    (t.halted ≠ s.halted → i = .exit) ∧ (t.draws ≠ s.draws → i = .cls ∨ ∃ x n, i = .rnd x n) ∧
    ((∃ a, t.byte a ≠ s.byte a) →
      (∃ x, i = .ldB x) ∨ (∃ x, i = .ldMiVx x) ∨ (∃ x y, i = .c8eBcd16 x y) ∨ ∃ x y, i = .c8eAscii x y)

/-- VF changes only where an instruction writes it as a flag, or names it (or loads it) as a destination (R31, R32, R50). That
ASCII and the sixth CHIP-8E operation may write it is the OPEN part of those operations (R337, R338; logs 14, 15). -/
def Obligations.FlagRegisterWrittenOnlyAsFlagOrDestination : Prop :=
  ∀ (i : Instr) (s t : State), exec i s = .next t → t.reg VF ≠ s.reg VF →
    (∃ x y, i = .addVxVy x y ∨ i = .sub x y ∨ i = .subn x y ∨ i = .shr x y ∨ i = .shl x y) ∨
    (s.cfg.profile = .vip ∧ ∃ x y, i = .or x y ∨ i = .and x y ∨ i = .xor x y) ∨
    (∃ x y n, i = .drw x y n) ∨ (∃ x y, i = .drw16 x y ∨ i = .c8eMul x y ∨ i = .c8eDiv x y) ∨
    (∃ y, i = .ldVxVy VF y ∨ i = .or VF y ∨ i = .and VF y ∨ i = .xor VF y) ∨
    (∃ n, i = .ldVxNn VF n ∨ i = .addVxNn VF n ∨ i = .rnd VF n) ∨
    i = .ldVxDt VF ∨ i = .ldVxK VF ∨ i = .ldVxMi VF ∨ (∃ x y, i = .c8eAscii x y ∨ i = .c8eOp6 x y)

/-- No step changes a byte below 0x200 but those of the CHIP-8E scratch region, and only the ASCII operation changes those: the
fonts and the CHIP-8E tables keep their construction contents (R55, R75). -/
def Obligations.BytesBelowProgramBaseKept : Prop :=
  (∀ s t : State, s.Inv → step s = .next t → ∀ a, a < 0x200 →
    (∀ p, s.cfg.c8e = some p → ¬ (p.asciiScratch ≤ a ∧ a < p.asciiScratch + p.asciiRows)) → t.byte a = s.byte a) ∧
  (∀ (i : Instr) (s t : State), s.Inv → exec i s = .next t → (¬ ∃ x y, i = .c8eAscii x y) →
    ∀ a, a < 0x200 → t.byte a = s.byte a)

/-- The key hints have no effect on execution: a step from a state with other hints is the same step, but for the hints (R43,
R433). -/
def Obligations.HintsNeverAffectExecution : Prop :=
  ∀ (s : State) (h : KeySet),
    (∀ t, step s = .next t → ∃ h', step { s with hints := h } = .next { t with hints := h' }) ∧
    (∀ f, step s = .fault f → step { s with hints := h } = .fault f)

/-- No instruction reads ST: a step from a state with another sound timer is the same step, but for the sound timer (R37,
R426). -/
def Obligations.SoundTimerNeverReadByExecution : Prop :=
  ∀ (s : State) (c : TimerCapture),
    (∀ t, step s = .next t → ∃ c', step { s with st := c } = .next { t with st := c' }) ∧
    (∀ f, step s = .fault f → step { s with st := c } = .fault f)

/-! ## Control flow -/

/-- SYS nnn, for every 0x0 word that no other row claims, changes nothing (R160). -/
def Obligations.SysIsNoOperation : Prop :=
  ∀ (s : State) (nnn : Addr),
    (nnn ∉ [0x0E0#12, 0x0EE#12, 0x0FB#12, 0x0FC#12, 0x0FD#12, 0x0FE#12, 0x0FF#12] → nnn.extractLsb' 4 8 ≠ 0x0C#8 →
      Decodes (0x0#4 ++ nnn) (.sys nnn)) ∧
    exec (.sys nnn) s = .next s

/-- JP nnn and BNNN leave `pc` two below their target, modulo 0x1000, and change nothing else; the offset register of BNNN is V0
under Vip and the one of the target's top nibble under SChip (R162, R168, R33). -/
def Obligations.JumpsGoToTheirTarget : Prop :=
  ∀ (s : State) (nnn : Addr),
    Decodes (0x1#4 ++ nnn) (.jp nnn) ∧ Decodes (0xB#4 ++ nnn) (.jpV0 nnn) ∧
    (∃ t, exec (.jp nnn) s = .next t ∧ (t.pc.toNat + 2) % 0x1000 = nnn.toNat ∧ t = { s with pc := t.pc }) ∧
    (∃ t, exec (.jpV0 nnn) s = .next t ∧ t = { s with pc := t.pc } ∧
      (s.cfg.profile = .vip → (t.pc.toNat + 2) % 0x1000 = (nnn.toNat + (s.reg 0#4).toNat) % 0x1000) ∧
      (s.cfg.profile = .sChip →
        (t.pc.toNat + 2) % 0x1000 = (nnn.toNat + (s.reg (nnn.extractLsb' 8 4)).toNat) % 0x1000))

/-- CALL nnn pushes its own address and goes to its target; at the depth `STACK_MAX` it faults STACK_OVERFLOW (R163). -/
def Obligations.CallPushesItsAddress : Prop :=
  ∀ (s : State) (nnn : Addr), Decodes (0x2#4 ++ nnn) (.call nnn) ∧
    (s.sp < s.cfg.stackMax → ∃ t, exec (.call nnn) s = .next t ∧
      t.stack[s.sp]? = some s.pc ∧ (∀ k, k ≠ s.sp → t.stack[k]? = s.stack[k]?) ∧ t.sp = s.sp + 1 ∧
      (t.pc.toNat + 2) % 0x1000 = nnn.toNat ∧ t = { s with stack := t.stack, sp := t.sp, pc := t.pc }) ∧
    (s.sp = s.cfg.stackMax → FaultsWith (.call nnn) s .stackOverflow none)

/-- RET takes the last entry off the stack into `pc`; on an empty stack it faults STACK_UNDERFLOW (R161). -/
def Obligations.ReturnPopsTheCaller : Prop :=
  ∀ (s : State), Decodes 0x00EE#16 .ret ∧
    (0 < s.sp → s.sp ≤ s.cfg.stackMax → ∃ t, exec .ret s = .next t ∧ some t.pc = s.stack[s.sp - 1]? ∧
      t.sp = s.sp - 1 ∧ t = { s with sp := t.sp, pc := t.pc }) ∧
    (s.sp = 0 → FaultsWith .ret s .stackUnderflow none)

/-- A call and the return from it restore the `pc` and the depth before the call, whatever the subroutine did to `pc` and to the
general registers (R161, R163). -/
def Obligations.CallThenReturnRestoresPc : Prop :=
  ∀ (s t u : State) (nnn : Addr), s.sp < s.cfg.stackMax → exec (.call nnn) s = .next t →
    u.sp = t.sp → u.stack = t.stack → u.cfg = t.cfg →
    ∃ r, exec .ret u = .next r ∧ r.pc = s.pc ∧ r.sp = s.sp ∧ r.fault = u.fault

/-- The four compare-skips add 2 to `pc` where their comparison holds, and change nothing else (R164 to R167). -/
def Obligations.CompareSkips : Prop :=
  ∀ (s : State) (x y : Reg) (nn : Byte),
    Decodes (0x3#4 ++ x ++ nn) (.seVxNn x nn) ∧ Decodes (0x4#4 ++ x ++ nn) (.sneVxNn x nn) ∧
    Decodes (0x5#4 ++ x ++ y ++ 0x0#4) (.seVxVy x y) ∧ Decodes (0x9#4 ++ x ++ y ++ 0x0#4) (.sneVxVy x y) ∧
    exec (.seVxNn x nn) s = .next { s with pc := if s.reg x = nn then s.pc + 2#12 else s.pc } ∧
    exec (.sneVxNn x nn) s = .next { s with pc := if s.reg x = nn then s.pc else s.pc + 2#12 } ∧
    exec (.seVxVy x y) s = .next { s with pc := if s.reg x = s.reg y then s.pc + 2#12 else s.pc } ∧
    exec (.sneVxVy x y) s = .next { s with pc := if s.reg x = s.reg y then s.pc else s.pc + 2#12 }

/-! ## Register arithmetic and logic -/

/-- 6XNN, 7XNN and 8XY0 write their destination, the sum modulo 256, and nothing else, VF included (R190 to R193). -/
def Obligations.LoadsAndAddImmediate : Prop :=
  ∀ (s : State) (x y : Reg) (nn : Byte),
    Decodes (0x6#4 ++ x ++ nn) (.ldVxNn x nn) ∧ Decodes (0x7#4 ++ x ++ nn) (.addVxNn x nn) ∧
    Decodes (0x8#4 ++ x ++ y ++ 0x0#4) (.ldVxVy x y) ∧
    WritesRegs (.ldVxNn x nn) s (fun z => if z = x then nn else s.reg z) ∧
    WritesRegs (.addVxNn x nn) s
      (fun z => if z = x then BitVec.ofNat 8 (((s.reg x).toNat + nn.toNat) % 256) else s.reg z) ∧
    WritesRegs (.ldVxVy x y) s (fun z => if z = x then s.reg y else s.reg z)

/-- OR, AND and XOR write the bitwise result; VF is then cleared under Vip and untouched under SChip (R194 to R196). -/
def Obligations.BitwiseLogic : Prop :=
  ∀ (s : State) (x y : Reg),
    Decodes (0x8#4 ++ x ++ y ++ 0x1#4) (.or x y) ∧ Decodes (0x8#4 ++ x ++ y ++ 0x2#4) (.and x y) ∧
    Decodes (0x8#4 ++ x ++ y ++ 0x3#4) (.xor x y) ∧
    WritesRegs (.or x y) s (fun z => if s.cfg.profile = .vip ∧ z = VF then 0#8
      else if z = x then s.reg x ||| s.reg y else s.reg z) ∧
    WritesRegs (.and x y) s (fun z => if s.cfg.profile = .vip ∧ z = VF then 0#8
      else if z = x then s.reg x &&& s.reg y else s.reg z) ∧
    WritesRegs (.xor x y) s (fun z => if s.cfg.profile = .vip ∧ z = VF then 0#8
      else if z = x then s.reg x ^^^ s.reg y else s.reg z)

/-- 8XY4, 8XY5 and 8XY7 write the sum or difference modulo 256 and then VF: the carry, or NOT borrow (R190, R197, R198, R200).
With x = F the flag survives. -/
def Obligations.AddAndSubtractWithFlag : Prop :=
  ∀ (s : State) (x y : Reg),
    Decodes (0x8#4 ++ x ++ y ++ 0x4#4) (.addVxVy x y) ∧ Decodes (0x8#4 ++ x ++ y ++ 0x5#4) (.sub x y) ∧
    Decodes (0x8#4 ++ x ++ y ++ 0x7#4) (.subn x y) ∧
    WritesRegs (.addVxVy x y) s (fun z =>
      if z = VF then (if (s.reg x).toNat + (s.reg y).toNat ≥ 256 then 1#8 else 0#8)
      else if z = x then BitVec.ofNat 8 (((s.reg x).toNat + (s.reg y).toNat) % 256) else s.reg z) ∧
    WritesRegs (.sub x y) s (fun z =>
      if z = VF then (if (s.reg x).toNat ≥ (s.reg y).toNat then 1#8 else 0#8)
      else if z = x then BitVec.ofNat 8 (((s.reg x).toNat + 256 - (s.reg y).toNat) % 256) else s.reg z) ∧
    WritesRegs (.subn x y) s (fun z =>
      if z = VF then (if (s.reg y).toNat ≥ (s.reg x).toNat then 1#8 else 0#8)
      else if z = x then BitVec.ofNat 8 (((s.reg y).toNat + 256 - (s.reg x).toNat) % 256) else s.reg z)

/-- 8XY6 and 8XYE shift their source, V[y] under Vip and V[x] under SChip, by one place, and VF is then the bit shifted out
(R199, R201). -/
def Obligations.ShiftsWithFlag : Prop :=
  ∀ (s : State) (x y : Reg) (src : Byte), src = (if s.cfg.profile = .vip then s.reg y else s.reg x) →
    Decodes (0x8#4 ++ x ++ y ++ 0x6#4) (.shr x y) ∧ Decodes (0x8#4 ++ x ++ y ++ 0xE#4) (.shl x y) ∧
    WritesRegs (.shr x y) s (fun z => if z = VF then BitVec.ofNat 8 (src.toNat % 2)
      else if z = x then BitVec.ofNat 8 (src.toNat / 2) else s.reg z) ∧
    WritesRegs (.shl x y) s (fun z => if z = VF then BitVec.ofNat 8 (src.toNat / 128)
      else if z = x then BitVec.ofNat 8 (src.toNat * 2 % 256) else s.reg z)

/-- CXNN writes a masked draw to its destination and nothing else of the spec's state; the draw is the free value of the draw
counter, which moves on (R202; log 4). -/
def Obligations.RandomByteIsMasked : Prop :=
  ∀ (s : State) (x : Reg) (nn : Byte), Decodes (0xC#4 ++ x ++ nn) (.rnd x nn) ∧
    ∃ t, exec (.rnd x nn) s = .next t ∧
      (∀ z, t.reg z = if z = x then Config.freeByte s.draws &&& nn else s.reg z) ∧
      (nn = 0#8 → t.reg x = 0#8) ∧ t = { s with v := t.v, draws := s.draws + 1 }

/-! ## Address register and memory -/

/-- ANNN and FX1E write `I`, the latter the sum modulo 0x1000, and nothing else, VF included (R220, R221). -/
def Obligations.AddressRegisterWrites : Prop :=
  ∀ (s : State) (x : Reg) (nnn : Addr),
    Decodes (0xA#4 ++ nnn) (.ldI nnn) ∧ Decodes (0xF#4 ++ x ++ 0x1E#8) (.addIVx x) ∧
    exec (.ldI nnn) s = .next { s with i := nnn } ∧
    ∃ t, exec (.addIVx x) s = .next t ∧ t.i.toNat = (s.i.toNat + (s.reg x).toNat) % 0x1000 ∧ t = { s with i := t.i }

/-- FX29 and FX30 point `I` at a glyph of the low or the high font, and fault OPERAND for a value above 15 (R222, R306). -/
def Obligations.FontLookups : Prop :=
  ∀ (s : State) (x : Reg),
    Decodes (0xF#4 ++ x ++ 0x29#8) (.ldF x) ∧ Decodes (0xF#4 ++ x ++ 0x30#8) (.ldHf x) ∧
    ((s.reg x).toNat ≤ 15 →
      (∃ t, exec (.ldF x) s = .next t ∧ t.i.toNat = (s.cfg.fontLoBase + 5 * (s.reg x).toNat) % 0x1000 ∧
        t = { s with i := t.i }) ∧
      (∃ t, exec (.ldHf x) s = .next t ∧ t.i.toNat = (s.cfg.fontHiBase + 10 * (s.reg x).toNat) % 0x1000 ∧
        t = { s with i := t.i })) ∧
    ((s.reg x).toNat > 15 → FaultsWith (.ldF x) s .operand none ∧ FaultsWith (.ldHf x) s .operand none)

/-- FX33 stores the three decimal digits of V[x] at `I`, most significant first, and changes no other byte and no register; it
faults MEM_RANGE where the bytes do not lie in the data segment (R77, R78, R223). -/
def Obligations.BcdStore : Prop :=
  ∀ (s : State) (x : Reg), Memory.wf s.cfg.memSize s.cfg.initByte s.mem →
    Decodes (0xF#4 ++ x ++ 0x33#8) (.ldB x) ∧
    (0x200 ≤ s.i.toNat → s.i.toNat + 2 < s.cfg.memSize → ∃ t, exec (.ldB x) s = .next t ∧
      t.byte s.i.toNat = BitVec.ofNat 8 ((s.reg x).toNat / 100) ∧
      t.byte (s.i.toNat + 1) = BitVec.ofNat 8 ((s.reg x).toNat / 10 % 10) ∧
      t.byte (s.i.toNat + 2) = BitVec.ofNat 8 ((s.reg x).toNat % 10) ∧
      (∀ a, a < s.i.toNat ∨ s.i.toNat + 3 ≤ a → t.byte a = s.byte a) ∧ t = { s with mem := t.mem }) ∧
    (¬ (0x200 ≤ s.i.toNat ∧ s.i.toNat + 2 < s.cfg.memSize) →
      FaultsWith (.ldB x) s .memRange (some (lowestOutside 0x200 s.cfg.memSize s.i.toNat)))

/-- FX55 stores V[0..x] at `I`, changes no other byte and no general register, and adds x + 1 to `I` under Vip only; it faults
MEM_RANGE where the bytes do not lie in the data segment (R77, R78, R224). -/
def Obligations.BulkRegisterStore : Prop :=
  ∀ (s : State) (x : Reg), Memory.wf s.cfg.memSize s.cfg.initByte s.mem →
    Decodes (0xF#4 ++ x ++ 0x55#8) (.ldMiVx x) ∧
    (0x200 ≤ s.i.toNat → s.i.toNat + x.toNat < s.cfg.memSize → ∃ t, exec (.ldMiVx x) s = .next t ∧
      (∀ k : Reg, k.toNat ≤ x.toNat → t.byte (s.i.toNat + k.toNat) = s.reg k) ∧
      (∀ a, a < s.i.toNat ∨ s.i.toNat + x.toNat + 1 ≤ a → t.byte a = s.byte a) ∧
      (s.cfg.profile = .vip → t.i.toNat = (s.i.toNat + x.toNat + 1) % 0x1000) ∧
      (s.cfg.profile = .sChip → t.i = s.i) ∧ t = { s with mem := t.mem, i := t.i }) ∧
    (¬ (0x200 ≤ s.i.toNat ∧ s.i.toNat + x.toNat < s.cfg.memSize) →
      FaultsWith (.ldMiVx x) s .memRange (some (lowestOutside 0x200 s.cfg.memSize s.i.toNat)))

/-- FX65 loads V[0..x] from `I`, leaves the other registers and all of memory, and adds x + 1 to `I` under Vip only; it faults
MEM_RANGE where the bytes do not lie in the data segment (R76, R78, R225). -/
def Obligations.BulkRegisterLoad : Prop :=
  ∀ (s : State) (x : Reg), Decodes (0xF#4 ++ x ++ 0x65#8) (.ldVxMi x) ∧
    (0x200 ≤ s.i.toNat → s.i.toNat + x.toNat < s.cfg.memSize → ∃ t, exec (.ldVxMi x) s = .next t ∧
      (∀ k : Reg, t.reg k = if k.toNat ≤ x.toNat then s.byte (s.i.toNat + k.toNat) else s.reg k) ∧
      (s.cfg.profile = .vip → t.i.toNat = (s.i.toNat + x.toNat + 1) % 0x1000) ∧
      (s.cfg.profile = .sChip → t.i = s.i) ∧ t = { s with v := t.v, i := t.i }) ∧
    (¬ (0x200 ≤ s.i.toNat ∧ s.i.toNat + x.toNat < s.cfg.memSize) →
      FaultsWith (.ldVxMi x) s .memRange (some (lowestOutside 0x200 s.cfg.memSize s.i.toNat)))

/-- Fetch is coherent with stores: two registers stored by FX55 over the word that the next step fetches are the word it
decodes (R85, R513). -/
def Obligations.StoredInstructionIsFetched : Prop :=
  ∀ (s t u : State) (x : Reg) (i : Instr), Memory.wf s.cfg.memSize s.cfg.initByte s.mem → 1 ≤ x.toNat →
    0x200 ≤ s.i.toNat → s.i.toNat + x.toNat < s.cfg.memSize → exec (.ldMiVx x) s = .next t →
    u = { t with pc := s.i - 2#12, inputs := [] } → u.Ready → s.i.toNat % 2 = 0 → s.i.toNat + 2 ≤ u.progEnd →
    decode s.cfg (s.reg 0#4 ++ s.reg 1#4) = .ok i →
    ∃ r, exec i { u with pc := s.i, result := none } = .next r ∧
      step u = .next (if r.fault = none then { r with result := some (stepResult s.cfg i) } else r)

/-! ## Timers and keys -/

/-- FX07 writes the value of DT to V[x], the start value less the elapsed ticks and not below 0, and leaves DT as it was or, at
0, idle; FX15 and FX18 capture V[x] and the clock reading, or make the timer idle for V[x] = 0 (R226 to R228, R420, R421). -/
def Obligations.TimerInstructions : Prop :=
  ∀ (s : State) (x : Reg),
    Decodes (0xF#4 ++ x ++ 0x07#8) (.ldVxDt x) ∧ Decodes (0xF#4 ++ x ++ 0x15#8) (.ldDtVx x) ∧
    Decodes (0xF#4 ++ x ++ 0x18#8) (.ldStVx x) ∧
    (s.dt = .idle → WritesRegs (.ldVxDt x) s (fun z => if z = x then 0#8 else s.reg z)) ∧
    (∀ v t0, s.dt = .running v t0 → ∃ t, exec (.ldVxDt x) s = .next t ∧
      (t.reg x).toNat = v.toNat - (s.now - t0) / s.cfg.tickUs ∧ (∀ z, z ≠ x → t.reg z = s.reg z) ∧
      t.dt = (if (s.now - t0) / s.cfg.tickUs ≥ v.toNat then .idle else .running v t0) ∧
      t = { s with v := t.v, dt := t.dt }) ∧
    exec (.ldDtVx x) s = .next { s with dt := if s.reg x = 0#8 then .idle else .running (s.reg x) s.now } ∧
    exec (.ldStVx x) s = .next { s with st := if s.reg x = 0#8 then .idle else .running (s.reg x) s.now }

/-- The timer properties: a timer just set reads its value, one tick later one less, never below 0, and successive reads at
later times never increase (R424, R420, R421, R423). -/
def Obligations.TimerCountsDown : Prop :=
  ∀ (tick : Nat) (v : Byte) (now : Nat), 1 ≤ tick →
    (timerGet tick (timerSet v now) now).2 = v ∧
    (v ≠ 0#8 → (timerGet tick (timerSet v now) (now + tick)).2.toNat = v.toNat - 1) ∧
    (timerGet tick (timerSet v now) (now + v.toNat * tick)).2 = 0#8 ∧
    (∀ c t1 t2, t1 ≤ t2 → (timerGet tick (timerGet tick c t1).1 t2).2.toNat ≤ (timerGet tick c t1).2.toNat)

/-- The idle transition cannot be observed: at every later time, the capture after a read reads as the capture before it
(R422). -/
def Obligations.IdleTransitionUnobservable : Prop :=
  ∀ (tick : Nat) (c : TimerCapture) (t1 t2 : Nat), t1 ≤ t2 →
    (timerGet tick (timerGet tick c t1).1 t2).2 = (timerGet tick c t2).2

/-- EX9E and EXA1 record V[x] as a hint and skip where that key is down, or is not; they fault OPERAND for a value above 15
(R229, R230, R431, R433). -/
def Obligations.KeySkips : Prop :=
  ∀ (s : State) (x : Reg),
    Decodes (0xE#4 ++ x ++ 0x9E#8) (.skp x) ∧ Decodes (0xE#4 ++ x ++ 0xA1#8) (.sknp x) ∧
    (∀ k : Nibble, k.toNat = (s.reg x).toNat →
      (∃ t, exec (.skp x) s = .next t ∧ (∀ j, t.hints.has j = true ↔ j = k ∨ s.hints.has j = true) ∧
        t = { s with hints := t.hints, pc := if s.down.has k then s.pc + 2#12 else s.pc }) ∧
      (∃ t, exec (.sknp x) s = .next t ∧ (∀ j, t.hints.has j = true ↔ j = k ∨ s.hints.has j = true) ∧
        t = { s with hints := t.hints, pc := if s.down.has k then s.pc else s.pc + 2#12 })) ∧
    ((s.reg x).toNat > 15 → FaultsWith (.skp x) s .operand none ∧ FaultsWith (.sknp x) s .operand none)

/-- FX0A completes with the one key down on an armed detector; with no key down it arms the detector and waits, and in every
other case it only waits; waiting rewinds `pc` by 2 (R142, R231, R432). -/
def Obligations.KeyWaitCompletesOrWaits : Prop :=
  ∀ (s : State) (x : Reg), Decodes (0xF#4 ++ x ++ 0x0A#8) (.ldVxK x) ∧
    (∀ k : Nibble, s.armed = true → (∀ j, s.down.has j = true ↔ j = k) → ∃ t, exec (.ldVxK x) s = .next t ∧
      (t.reg x).toNat = k.toNat ∧ (∀ z, z ≠ x → t.reg z = s.reg z) ∧ t = { s with v := t.v, armed := false }) ∧
    ((∀ j, s.down.has j = false) → exec (.ldVxK x) s = .next { s with armed := true, pc := s.pc - 2#12 }) ∧
    ((∃ j, s.down.has j = true) → s.armed = false → exec (.ldVxK x) s = .next { s with pc := s.pc - 2#12 }) ∧
    ((∃ j k, j ≠ k ∧ s.down.has j = true ∧ s.down.has k = true) →
      exec (.ldVxK x) s = .next { s with pc := s.pc - 2#12 })

/-! ## Display -/

/-- 00E0 unsets every pixel of the effective grid and changes nothing else but the backing pixels outside it, of which nothing
is said (R269, R280). The draw counter moves on (log 5). -/
def Obligations.ClearUnsetsTheEffectiveGrid : Prop :=
  ∀ (s : State), Decodes 0x00E0#16 .cls ∧
    ∃ t, exec .cls s = .next t ∧ (∀ x y, x < s.cfg.effW s.hires → y < s.cfg.effH s.hires → pixel t.fb x y = false) ∧
      t.GridSized ∧ t = { s with fb := t.fb, draws := s.draws + 1 }

/-- DXYN reads n bytes at `I` as rows of 8 pixels and draws them; it faults MEM_RANGE where the last byte lies past memory
(R262 to R265, R281). -/
def Obligations.DrawTogglesTheCoveredPixels : Prop :=
  ∀ (s : State) (x y : Reg) (n : Nibble), n ≠ 0#4 →
    Decodes (0xD#4 ++ x ++ y ++ n) (.drw x y n) ∧
    (s.GridSized → s.i.toNat + n.toNat ≤ s.cfg.memSize → ∃ t, exec (.drw x y n) s = .next t ∧
      DrawnFrom s t x y ((List.range n.toNat).map fun r => (s.byte (s.i.toNat + r)).toNat) 8) ∧
    (s.i.toNat + n.toNat > s.cfg.memSize →
      FaultsWith (.drw x y n) s .memRange (some (max s.i.toNat s.cfg.memSize)))

/-- DXY0 faults PROFILE under Vip, whatever `I` is; under SChip it draws 16 rows, of 16 bits (two bytes, the left one first) in
hi-res and of 8 bits in low-res, and faults MEM_RANGE where they do not lie in memory (R282, R262 to R265, R404). -/
def Obligations.TallDraw : Prop :=
  ∀ (s : State) (x y : Reg), Decodes (0xD#4 ++ x ++ y ++ 0x0#4) (.drw16 x y) ∧
    (s.cfg.profile = .vip → FaultsWith (.drw16 x y) s .profile none) ∧
    (s.cfg.profile = .sChip → s.GridSized → s.hires = true → s.i.toNat + 32 ≤ s.cfg.memSize →
      ∃ t, exec (.drw16 x y) s = .next t ∧ DrawnFrom s t x y ((List.range 16).map fun r =>
        (s.byte (s.i.toNat + 2 * r)).toNat * 256 + (s.byte (s.i.toNat + 2 * r + 1)).toNat) 16) ∧
    (s.cfg.profile = .sChip → s.GridSized → s.hires = false → s.i.toNat + 16 ≤ s.cfg.memSize →
      ∃ t, exec (.drw16 x y) s = .next t ∧
        DrawnFrom s t x y ((List.range 16).map fun r => (s.byte (s.i.toNat + r)).toNat) 8) ∧
    (s.cfg.profile = .sChip → s.i.toNat + (if s.hires then 32 else 16) > s.cfg.memSize →
      FaultsWith (.drw16 x y) s .memRange (some (max s.i.toNat s.cfg.memSize)))

/-- Drawing the same sprite twice restores the grid, and the second draw collides exactly when the first set a pixel, for every
sprite of up to 16 rows and 8 or 16 columns, every place, both sprite modes and every effective grid (R265, R264). -/
def Obligations.DrawingTwiceRestoresTheGrid : Prop :=
  ∀ (s : State) (x y : Byte) (rows : List Nat) (wbits : Nat), s.GridSized → rows.length ≤ 16 → wbits ≤ 16 →
    let d := s.draw x y rows wbits
    let d' := d.1.draw x y rows wbits
    d'.1 = s ∧ (d'.2 = true ↔ ∃ px py, pixel s.fb px py = false ∧ pixel d.1.fb px py = true)

/-- The three scroll instructions shift the whole backing grid, and the vacated rows or columns are unset; 00C0 faults OPERAND
(R266, R300 to R302). -/
def Obligations.ScrollsShiftTheBackingGrid : Prop :=
  ∀ (s : State) (n : Nibble),
    Decodes (0x00C#12 ++ n) (.scd n) ∧ Decodes 0x00FB#16 .scr ∧ Decodes 0x00FC#16 .scl ∧
    (n ≠ 0#4 → ∃ t, exec (.scd n) s = .next t ∧ t.GridSized ∧ t = { s with fb := t.fb } ∧
      ∀ x y, x < s.cfg.backW → y < s.cfg.backH →
        pixel t.fb x y = if n.toNat ≤ y then pixel s.fb x (y - n.toNat) else false) ∧
    (n = 0#4 → FaultsWith (.scd n) s .operand none) ∧
    (∃ t, exec .scr s = .next t ∧ t.GridSized ∧ t = { s with fb := t.fb } ∧
      ∀ x y, x < s.cfg.backW → y < s.cfg.backH → pixel t.fb x y = if 4 ≤ x then pixel s.fb (x - 4) y else false) ∧
    (∃ t, exec .scl s = .next t ∧ t.GridSized ∧ t = { s with fb := t.fb } ∧
      ∀ x y, x < s.cfg.backW → y < s.cfg.backH →
        pixel t.fb x y = if x + 4 < s.cfg.backW then pixel s.fb (x + 4) y else false)

/-- Scrolling down by n and then up by n gives back the grid except for the bottom n rows, which are unset (R267). -/
def Obligations.ScrollDownThenUp : Prop :=
  ∀ (s : State) (n : Nat), 1 ≤ n → n ≤ 15 → ∀ x y, x < s.cfg.backW → y < s.cfg.backH →
    pixel ((s.scroll .down n).scroll .up n).fb x y = if y < s.cfg.backH - n then pixel s.fb x y else false

/-- 00FE and 00FF set the resolution mode and unset every backing pixel, also when the mode does not change; the effective grid
is then the one of R40 (R40, R268, R304, R305). -/
def Obligations.ResolutionSwitchClears : Prop :=
  ∀ (s : State), Decodes 0x00FE#16 .low ∧ Decodes 0x00FF#16 .high ∧
    (∃ t, exec .low s = .next t ∧ t.hires = false ∧ (∀ x y, pixel t.fb x y = false) ∧ t.GridSized ∧
      t = { s with hires := false, fb := t.fb } ∧ t.cfg.effW t.hires = 64 ∧ t.cfg.effH t.hires = 32) ∧
    (∃ t, exec .high s = .next t ∧ t.hires = true ∧ (∀ x y, pixel t.fb x y = false) ∧ t.GridSized ∧
      t = { s with hires := true, fb := t.fb } ∧
      (s.cfg.profile = .sChip → t.cfg.effW t.hires = 128 ∧ t.cfg.effH t.hires = 64) ∧
      (s.cfg.profile = .vip → t.cfg.effW t.hires = 64 ∧ t.cfg.effH t.hires = 32))

/-- 00FD halts the machine and changes nothing else; a step that runs it requests the exit, and no step follows it without a
host action (R131, R139, R303). -/
def Obligations.ExitHalts : Prop :=
  Decodes 0x00FD#16 .exit ∧ (∀ s : State, exec .exit s = .next { s with halted := true }) ∧
  (∀ s t : State, step s = .next t → t.halted = true → t.inputs = [] →
    t.result = some { needsSync := false, exitRequested := true } ∧ step t = .fault .stepWhileHalted)

/-! ## RPL -/

/-- FX75 stores V[0..x] in RPL[0..x] and FX85 loads them back, changing nothing else; both fault OPERAND for x > 7 (R307,
R308). -/
def Obligations.RplTransfers : Prop :=
  ∀ (s : State) (x : Reg),
    Decodes (0xF#4 ++ x ++ 0x75#8) (.ldRVx x) ∧ Decodes (0xF#4 ++ x ++ 0x85#8) (.ldVxR x) ∧
    (x.toNat ≤ 7 →
      (∃ t, exec (.ldRVx x) s = .next t ∧
        (∀ k : Reg, k.toNat ≤ x.toNat → t.rpl[k.toNat]? = some (s.reg k)) ∧
        (∀ k, x.toNat < k → t.rpl[k]? = s.rpl[k]?) ∧ t = { s with rpl := t.rpl }) ∧
      (∃ t, exec (.ldVxR x) s = .next t ∧
        (∀ k : Reg, k.toNat ≤ x.toNat → some (t.reg k) = s.rpl[k.toNat]?) ∧
        (∀ k : Reg, x.toNat < k.toNat → t.reg k = s.reg k) ∧ t = { s with v := t.v })) ∧
    (x.toNat > 7 → FaultsWith (.ldRVx x) s .operand none ∧ FaultsWith (.ldVxR x) s .operand none)

/-! ## CHIP-8E -/

/-- The signed compare-skip compares two's-complement values by the relation the machine has (R333). -/
def Obligations.C8eSignedSkip : Prop :=
  ∀ (s : State) (x y : Reg) (p : C8E) (a b : Int), s.cfg.c8e = some p →
    a = (if (s.reg x).toNat ≥ 128 then ((s.reg x).toNat : Int) - 256 else (s.reg x).toNat) →
    b = (if (s.reg y).toNat ≥ 128 then ((s.reg y).toNat : Int) - 256 else (s.reg y).toNat) →
    (p.skipRel = .lt → exec (.c8eSks x y) s = .next { s with pc := if a < b then s.pc + 2#12 else s.pc }) ∧
    (p.skipRel = .le → exec (.c8eSks x y) s = .next { s with pc := if a ≤ b then s.pc + 2#12 else s.pc }) ∧
    (p.skipRel = .gt → exec (.c8eSks x y) s = .next { s with pc := if a > b then s.pc + 2#12 else s.pc }) ∧
    (p.skipRel = .ge → exec (.c8eSks x y) s = .next { s with pc := if a ≥ b then s.pc + 2#12 else s.pc })

/-- The multiply writes the two halves of the 16-bit product to V[x] and VF, VF last (R332, R334). -/
def Obligations.C8eMultiply : Prop :=
  ∀ (s : State) (x y : Reg) (p : C8E) (q : Nat), s.cfg.c8e = some p → q = (s.reg x).toNat * (s.reg y).toNat →
    (p.mulVfHalf = .high → WritesRegs (.c8eMul x y) s (fun z => if z = VF then BitVec.ofNat 8 (q / 256)
      else if z = x then BitVec.ofNat 8 (q % 256) else s.reg z)) ∧
    (p.mulVfHalf = .low → WritesRegs (.c8eMul x y) s (fun z => if z = VF then BitVec.ofNat 8 (q % 256)
      else if z = x then BitVec.ofNat 8 (q / 256) else s.reg z))

/-- The divide writes quotient and remainder to V[x] and VF, VF last, and faults DIV_ZERO for a zero divisor (R332, R335). -/
def Obligations.C8eDivide : Prop :=
  ∀ (s : State) (x y : Reg) (p : C8E), s.cfg.c8e = some p →
    (s.reg y ≠ 0#8 → p.divResult = .quotRem → WritesRegs (.c8eDiv x y) s (fun z =>
      if z = VF then BitVec.ofNat 8 ((s.reg x).toNat % (s.reg y).toNat)
      else if z = x then BitVec.ofNat 8 ((s.reg x).toNat / (s.reg y).toNat) else s.reg z)) ∧
    (s.reg y ≠ 0#8 → p.divResult = .remQuot → WritesRegs (.c8eDiv x y) s (fun z =>
      if z = VF then BitVec.ofNat 8 ((s.reg x).toNat / (s.reg y).toNat)
      else if z = x then BitVec.ofNat 8 ((s.reg x).toNat % (s.reg y).toNat) else s.reg z)) ∧
    (s.reg y = 0#8 → FaultsWith (.c8eDiv x y) s .divZero none)

/-- The five-digit BCD stores the decimal digits of its 16-bit source at `I`, most significant first, and changes no other byte
and no register; it faults MEM_RANGE outside the data segment (R336). The source is one of the readings the spec names, or,
where they give no value, some value (log 13). -/
def Obligations.C8eBcdStore : Prop :=
  ∀ (s : State) (x y : Reg) (p : C8E), s.cfg.c8e = some p → Memory.wf s.cfg.memSize s.cfg.initByte s.mem →
    (0x200 ≤ s.i.toNat → s.i.toNat + 4 < s.cfg.memSize → ∃ t u, exec (.c8eBcd16 x y) s = .next t ∧ u ≤ 65535 ∧
      (p.bcdSource = .vxVy → u = (s.reg x).toNat * 256 + (s.reg y).toNat) ∧
      (p.bcdSource = .vyVx → u = (s.reg y).toNat * 256 + (s.reg x).toNat) ∧
      (p.bcdSource = .vxNext → x.toNat ≤ 14 → u = (s.reg x).toNat * 256 + (s.reg (x + 1#4)).toNat) ∧
      (∀ k, k ≤ 4 → t.byte (s.i.toNat + k) = BitVec.ofNat 8 (u / 10 ^ (4 - k) % 10)) ∧
      (∀ a, a < s.i.toNat ∨ s.i.toNat + 5 ≤ a → t.byte a = s.byte a) ∧ t = { s with mem := t.mem }) ∧
    (¬ (0x200 ≤ s.i.toNat ∧ s.i.toNat + 4 < s.cfg.memSize) →
      FaultsWith (.c8eBcd16 x y) s .memRange (some (lowestOutside 0x200 s.cfg.memSize s.i.toNat)))

/-- The ASCII operation renders its glyph into the scratch region, points `I` at it, changes no byte outside that region, and
leaves the general registers as they were where the machine has no further effect; it faults OPERAND for a code above 63
(R337). The glyph's bytes are the machine's OPEN rendering of the code (log 14). -/
def Obligations.C8eAsciiRender : Prop :=
  ∀ (s : State) (x y : Reg) (p : C8E), s.cfg.c8e = some p → Memory.wf s.cfg.memSize s.cfg.initByte s.mem →
    ((s.reg x).toNat ≤ 63 → ∃ t, exec (.c8eAscii x y) s = .next t ∧
      (∀ k, k < p.asciiRows → t.byte (p.asciiScratch + k) =
        Config.c8eAsciiRender (s.reg x) p.asciiPatterns p.asciiIndex k) ∧
      (∀ a, a < p.asciiScratch ∨ p.asciiScratch + p.asciiRows ≤ a → t.byte a = s.byte a) ∧
      t.i.toNat = p.asciiScratch % 0x1000 ∧ (p.asciiResult = .nothing → t.v = s.v) ∧
      t = { s with mem := t.mem, i := t.i, v := t.v }) ∧
    ((s.reg x).toNat > 63 → FaultsWith (.c8eAscii x y) s .operand none)

/-- The sixth operation: under the reading the spec calls likely it is a second signed compare-skip; under another one it
completes with a free effect on the general registers, `I` and a skip (the model's choice, log 15); with an empty encoding its
word is illegal (R332, R338). -/
def Obligations.C8eSixthOperation : Prop :=
  ∀ (s : State) (x y : Reg) (p : C8E), s.cfg.c8e = some p →
    (∀ op rel, p.op6 = some op → op.meaning = .signedSkip rel → exec (.c8eOp6 x y) s =
      .next { s with pc := if relHolds rel (s.reg x).toInt (s.reg y).toInt then s.pc + 2#12 else s.pc }) ∧
    (∀ op, p.op6 = some op → op.meaning = .other → ∃ t, exec (.c8eOp6 x y) s = .next t ∧
      (t.pc = s.pc ∨ t.pc = s.pc + 2#12) ∧ t = { s with v := t.v, i := t.i, pc := t.pc }) ∧
    (p.op6 = none → ∀ w, decode s.cfg w ≠ .ok (.c8eOp6 x y))

/-- Without the family: no word decodes to a CHIP-8E instruction, a word of the illegal set stays illegal, and at construction
the slots 10 to 15 of the high font and every byte outside the fonts are 0 (R330). -/
def Obligations.C8eDisabled : Prop :=
  ∀ (c : Config), c.c8e = none → c.layoutValid = true →
    (∀ w i, decode c w = .ok i → ¬ IsC8E i) ∧
    (∀ w e, decodeBase w = .error e → decode c w = .error e) ∧
    (∀ k, 100 ≤ k → k < 160 → (State.powerOn c).byte (c.fontHiBase + k) = 0#8) ∧
    (∀ a, (a < c.fontLoBase ∨ c.fontLoBase + 80 ≤ a) → (a < c.fontHiBase ∨ c.fontHiBase + 160 ≤ a) →
      (State.powerOn c).byte a = 0#8)

/-! ## Construction, load and reload -/

/-- Construction fails for a sound threshold outside 1..255, and else gives the machine of R500: the low font, the sixteen slots of
the high font, the CHIP-8E tables where the family is enabled, 0 in every other byte, and every other piece of state at the
value of the table (R406, R500, R504). -/
def Obligations.ConstructionGivesTheInitialState : Prop :=
  ∀ (c : Config), c.layoutValid = true →
    (¬ (1 ≤ c.soundThreshold ∧ c.soundThreshold ≤ 255) → State.construct c = .error .soundThreshold) ∧
    (1 ≤ c.soundThreshold → c.soundThreshold ≤ 255 → ∃ s, State.construct c = .ok s ∧ s.cfg = c ∧
      (∀ x, s.reg x = 0#8) ∧ s.i = 0#12 ∧ s.pc = 0x1FE#12 ∧ s.sp = 0 ∧ (∀ k, k < 8 → s.rpl[k]? = some 0#8) ∧
      s.dt = .idle ∧ s.st = .idle ∧ (∀ k, k < 80 → some (s.byte (c.fontLoBase + k)) = c.fontLo[k]?) ∧
      (∀ k, k < 100 → some (s.byte (c.fontHiBase + k)) = c.fontHi[k]?) ∧
      (c.c8e = none → ∀ k, 100 ≤ k → k < 160 → s.byte (c.fontHiBase + k) = 0#8) ∧
      (∀ p, c.c8e = some p → (∀ k, k < 60 → some (s.byte (c.fontHiBase + 100 + k)) = p.fontHiExt[k]?) ∧
        (∀ k, k < p.asciiPatterns.length → some (s.byte (p.asciiPatBase + k)) = p.asciiPatterns[k]?) ∧
        (∀ k, k < p.asciiIndex.length → some (s.byte (p.asciiIdxBase + k)) = p.asciiIndex[k]?)) ∧
      (∀ a, (a < c.fontLoBase ∨ c.fontLoBase + 80 ≤ a) → (a < c.fontHiBase ∨ c.fontHiBase + 160 ≤ a) →
        (∀ p, c.c8e = some p → (a < p.asciiPatBase ∨ p.asciiPatBase + p.asciiPatterns.length ≤ a) ∧
          (a < p.asciiIdxBase ∨ p.asciiIdxBase + p.asciiIndex.length ≤ a)) → s.byte a = 0#8) ∧
      s.progEnd = 0x200 ∧ s.GridSized ∧ (∀ x y, pixel s.fb x y = false) ∧ s.hires = false ∧
      (∀ k, s.down.has k = false) ∧ s.armed = false ∧ (∀ k, s.hints.has k = false) ∧ s.halted = false ∧ s.fault = none)

/-- A load fails for an empty image and for one past the end of memory, and a reload fails in the same way on the stored image;
the host is then left with the state as it was. Otherwise registers, depth and timers are reset, the image stands at 0x200 and 0
above it, there is no fault and no halt, and the display, the keypad, the hints, RPL and every byte below 0x200 are kept; a
reload then gives the same state again (R407, R502, R503). -/
def Obligations.LoadReloadsTheImage : Prop :=
  (∀ (s : State) (rom : List Byte),
    (rom.length = 0 → s.load rom = .error .empty ∧ s.hostAction (.load rom) = s) ∧
    (rom.length ≠ 0 → 0x200 + rom.length > s.cfg.memSize → s.load rom = .error .tooLarge ∧ s.hostAction (.load rom) = s) ∧
    (rom.length ≠ 0 → 0x200 + rom.length ≤ s.cfg.memSize → ∃ t, s.load rom = .ok t ∧ s.hostAction (.load rom) = t ∧
      t.image = rom ∧ t.reload = .ok t ∧
      (∀ x, t.reg x = 0#8) ∧ t.i = 0#12 ∧ t.pc = 0x1FE#12 ∧ t.sp = 0 ∧ t.dt = .idle ∧ t.st = .idle ∧
      (∀ a, a < 0x200 → t.byte a = s.byte a) ∧ (∀ k, k < rom.length → some (t.byte (0x200 + k)) = rom[k]?) ∧
      (∀ a, 0x200 + rom.length ≤ a → t.byte a = 0#8) ∧ t.progEnd = 0x200 + rom.length ∧ t.fault = none ∧
      t.halted = false ∧ t.fb = s.fb ∧ t.hires = s.hires ∧ t.down = s.down ∧ t.armed = s.armed ∧ t.hints = s.hints ∧
      t.rpl = s.rpl ∧ t.cfg = s.cfg)) ∧
  (∀ s : State,
    (s.image.length = 0 → s.reload = .error .empty ∧ s.hostAction .reload = s) ∧
    (s.image.length ≠ 0 → 0x200 + s.image.length > s.cfg.memSize →
      s.reload = .error .tooLarge ∧ s.hostAction .reload = s) ∧
    (s.image.length ≠ 0 → 0x200 + s.image.length ≤ s.cfg.memSize → s.reload = s.load s.image))

end
end

