-- ==== Sys2Proof/Laws/Decode.lean ====
section
/-! SUPPORT. The fields of an encoded word (30_encoding.md R101): extracting a field of a concatenation gives that field. -/

namespace Sys2Proof

/-! ## Format XY and XYN: `o x y f` -/

theorem op_xyn (o x y f : BitVec 4) : (o ++ x ++ y ++ f).extractLsb' 12 4 = o := by
  rw [BitVec.extractLsb'_append_eq_of_le (by decide), BitVec.extractLsb'_append_eq_of_le (by decide), BitVec.extractLsb'_append_eq_of_le (by decide)]
  exact BitVec.extractLsb'_eq_self

theorem x_xyn (o x y f : BitVec 4) : (o ++ x ++ y ++ f).extractLsb' 8 4 = x := by
  rw [BitVec.extractLsb'_append_eq_of_le (by decide), BitVec.extractLsb'_append_eq_of_le (by decide), BitVec.extractLsb'_append_eq_right]

theorem y_xyn (o x y f : BitVec 4) : (o ++ x ++ y ++ f).extractLsb' 4 4 = y := by
  rw [BitVec.extractLsb'_append_eq_of_le (by decide), BitVec.extractLsb'_append_eq_right]

theorem n_xyn (o x y f : BitVec 4) : (o ++ x ++ y ++ f).extractLsb' 0 4 = f := by
  rw [BitVec.extractLsb'_append_eq_right]

/-! ## Format XNN and XFN: `o x n n` -/

theorem op_xnn (o x : BitVec 4) (nn : Byte) : (o ++ x ++ nn).extractLsb' 12 4 = o := by
  rw [BitVec.extractLsb'_append_eq_of_le (by decide), BitVec.extractLsb'_append_eq_of_le (by decide)]
  exact BitVec.extractLsb'_eq_self

theorem x_xnn (o x : BitVec 4) (nn : Byte) : (o ++ x ++ nn).extractLsb' 8 4 = x := by
  rw [BitVec.extractLsb'_append_eq_of_le (by decide), BitVec.extractLsb'_append_eq_right]

theorem nn_xnn (o x : BitVec 4) (nn : Byte) : (o ++ x ++ nn).extractLsb' 0 8 = nn := by
  rw [BitVec.extractLsb'_append_eq_right]

/-! ## Format A12: `o n n n` -/

theorem op_a12 (o : BitVec 4) (nnn : Addr) : (o ++ nnn).extractLsb' 12 4 = o := by
  rw [BitVec.extractLsb'_append_eq_of_le (by decide)]
  exact BitVec.extractLsb'_eq_self

theorem nnn_a12 (o : BitVec 4) (nnn : Addr) : (o ++ nnn).extractLsb' 0 12 = nnn := by
  rw [BitVec.extractLsb'_append_eq_right]

/-! ## Format N4: `0 0 C n` -/

theorem top_n4 (k : BitVec 12) (n : Nibble) : (k ++ n).extractLsb' 4 12 = k := by
  rw [BitVec.extractLsb'_append_eq_of_le (by decide)]
  exact BitVec.extractLsb'_eq_self

theorem n_n4 (k : BitVec 12) (n : Nibble) : (k ++ n).extractLsb' 0 4 = n := by
  rw [BitVec.extractLsb'_append_eq_right]

/-! ## CHIP-8E rows -/

/-- A bit of the word of a CHIP-8E row. -/
theorem getLsbD_word (r : C8ERow) (x y : Reg) (i : Nat) : (r.word x y).getLsbD i =
    ((r.pat.getLsbD i && (0xF00F#16).getLsbD i) || (0#4 ++ x ++ y ++ 0#4).getLsbD i) := by
  simp only [C8ERow.word, BitVec.getLsbD_or, BitVec.getLsbD_and]

/-- The field `x` of the word of a CHIP-8E row (R106). -/
theorem x_word (r : C8ERow) (x y : Reg) : (r.word x y).extractLsb' 8 4 = x := by
  simp only [C8ERow.word, BitVec.extractLsb'_or, BitVec.extractLsb'_and, x_xyn]
  have : (0xF00F#16).extractLsb' 8 4 = 0#4 := by decide
  rw [this, BitVec.and_zero, BitVec.zero_or]

/-- The field `y` of the word of a CHIP-8E row (R106). -/
theorem y_word (r : C8ERow) (x y : Reg) : (r.word x y).extractLsb' 4 4 = y := by
  simp only [C8ERow.word, BitVec.extractLsb'_or, BitVec.extractLsb'_and, y_xyn]
  have : (0xF00F#16).extractLsb' 4 4 = 0#4 := by decide
  rw [this, BitVec.and_zero, BitVec.zero_or]

/-- The two bytes of a word are its word (R79). -/
theorem wordOfBytes_bytesOfWord (w : Word) : wordOfBytes (w.extractLsb' 8 8) (w.extractLsb' 0 8) = w := by
  rw [wordOfBytes]
  apply BitVec.eq_of_getLsbD_eq
  intro i hi
  rw [BitVec.getLsbD_append]
  by_cases h : i < 8
  · simp [h]
  · simp [h, show i - 8 < 8 by omega, show 8 + (i - 8) = i by omega]

end Sys2Proof
end

