-- ==== Sys2Proof/Laws/State.lean ====
section
/-! SUPPORT. One lemma for each field of State and each named update: the fields an update leaves alone, and the fields it
writes. -/

namespace Sys2Proof.Machine

variable (s : State)

/-! ## What each update leaves alone -/

@[simp] theorem setReg_i (x : Reg) (b : Byte) : (s.setReg x b).i = s.i := rfl
@[simp] theorem setReg_pc (x : Reg) (b : Byte) : (s.setReg x b).pc = s.pc := rfl
@[simp] theorem setReg_sp (x : Reg) (b : Byte) : (s.setReg x b).sp = s.sp := rfl
@[simp] theorem setReg_stack (x : Reg) (b : Byte) : (s.setReg x b).stack = s.stack := rfl
@[simp] theorem setReg_rpl (x : Reg) (b : Byte) : (s.setReg x b).rpl = s.rpl := rfl
@[simp] theorem setReg_dt (x : Reg) (b : Byte) : (s.setReg x b).dt = s.dt := rfl
@[simp] theorem setReg_st (x : Reg) (b : Byte) : (s.setReg x b).st = s.st := rfl
@[simp] theorem setReg_mem (x : Reg) (b : Byte) : (s.setReg x b).mem = s.mem := rfl
@[simp] theorem setReg_progEnd (x : Reg) (b : Byte) : (s.setReg x b).progEnd = s.progEnd := rfl
@[simp] theorem setReg_image (x : Reg) (b : Byte) : (s.setReg x b).image = s.image := rfl
@[simp] theorem setReg_fb (x : Reg) (b : Byte) : (s.setReg x b).fb = s.fb := rfl
@[simp] theorem setReg_hires (x : Reg) (b : Byte) : (s.setReg x b).hires = s.hires := rfl
@[simp] theorem setReg_down (x : Reg) (b : Byte) : (s.setReg x b).down = s.down := rfl
@[simp] theorem setReg_armed (x : Reg) (b : Byte) : (s.setReg x b).armed = s.armed := rfl
@[simp] theorem setReg_hints (x : Reg) (b : Byte) : (s.setReg x b).hints = s.hints := rfl
@[simp] theorem setReg_halted (x : Reg) (b : Byte) : (s.setReg x b).halted = s.halted := rfl
@[simp] theorem setReg_fault (x : Reg) (b : Byte) : (s.setReg x b).fault = s.fault := rfl
@[simp] theorem setReg_cfg (x : Reg) (b : Byte) : (s.setReg x b).cfg = s.cfg := rfl
@[simp] theorem setReg_now (x : Reg) (b : Byte) : (s.setReg x b).now = s.now := rfl
@[simp] theorem setReg_inputs (x : Reg) (b : Byte) : (s.setReg x b).inputs = s.inputs := rfl
@[simp] theorem setReg_result (x : Reg) (b : Byte) : (s.setReg x b).result = s.result := rfl
@[simp] theorem setReg_draws (x : Reg) (b : Byte) : (s.setReg x b).draws = s.draws := rfl

@[simp] theorem setRegFlag_i (x : Reg) (b f : Byte) : (s.setRegFlag x b f).i = s.i := rfl
@[simp] theorem setRegFlag_pc (x : Reg) (b f : Byte) : (s.setRegFlag x b f).pc = s.pc := rfl
@[simp] theorem setRegFlag_sp (x : Reg) (b f : Byte) : (s.setRegFlag x b f).sp = s.sp := rfl
@[simp] theorem setRegFlag_stack (x : Reg) (b f : Byte) : (s.setRegFlag x b f).stack = s.stack := rfl
@[simp] theorem setRegFlag_rpl (x : Reg) (b f : Byte) : (s.setRegFlag x b f).rpl = s.rpl := rfl
@[simp] theorem setRegFlag_dt (x : Reg) (b f : Byte) : (s.setRegFlag x b f).dt = s.dt := rfl
@[simp] theorem setRegFlag_st (x : Reg) (b f : Byte) : (s.setRegFlag x b f).st = s.st := rfl
@[simp] theorem setRegFlag_mem (x : Reg) (b f : Byte) : (s.setRegFlag x b f).mem = s.mem := rfl
@[simp] theorem setRegFlag_progEnd (x : Reg) (b f : Byte) : (s.setRegFlag x b f).progEnd = s.progEnd := rfl
@[simp] theorem setRegFlag_image (x : Reg) (b f : Byte) : (s.setRegFlag x b f).image = s.image := rfl
@[simp] theorem setRegFlag_fb (x : Reg) (b f : Byte) : (s.setRegFlag x b f).fb = s.fb := rfl
@[simp] theorem setRegFlag_hires (x : Reg) (b f : Byte) : (s.setRegFlag x b f).hires = s.hires := rfl
@[simp] theorem setRegFlag_down (x : Reg) (b f : Byte) : (s.setRegFlag x b f).down = s.down := rfl
@[simp] theorem setRegFlag_armed (x : Reg) (b f : Byte) : (s.setRegFlag x b f).armed = s.armed := rfl
@[simp] theorem setRegFlag_hints (x : Reg) (b f : Byte) : (s.setRegFlag x b f).hints = s.hints := rfl
@[simp] theorem setRegFlag_halted (x : Reg) (b f : Byte) : (s.setRegFlag x b f).halted = s.halted := rfl
@[simp] theorem setRegFlag_fault (x : Reg) (b f : Byte) : (s.setRegFlag x b f).fault = s.fault := rfl
@[simp] theorem setRegFlag_cfg (x : Reg) (b f : Byte) : (s.setRegFlag x b f).cfg = s.cfg := rfl
@[simp] theorem setRegFlag_now (x : Reg) (b f : Byte) : (s.setRegFlag x b f).now = s.now := rfl
@[simp] theorem setRegFlag_inputs (x : Reg) (b f : Byte) : (s.setRegFlag x b f).inputs = s.inputs := rfl
@[simp] theorem setRegFlag_result (x : Reg) (b f : Byte) : (s.setRegFlag x b f).result = s.result := rfl
@[simp] theorem setRegFlag_draws (x : Reg) (b f : Byte) : (s.setRegFlag x b f).draws = s.draws := rfl

@[simp] theorem setRegLogic_i (x : Reg) (b : Byte) : (s.setRegLogic x b).i = s.i := by unfold State.setRegLogic; split <;> rfl
@[simp] theorem setRegLogic_pc (x : Reg) (b : Byte) : (s.setRegLogic x b).pc = s.pc := by unfold State.setRegLogic; split <;> rfl
@[simp] theorem setRegLogic_sp (x : Reg) (b : Byte) : (s.setRegLogic x b).sp = s.sp := by unfold State.setRegLogic; split <;> rfl
@[simp] theorem setRegLogic_stack (x : Reg) (b : Byte) : (s.setRegLogic x b).stack = s.stack := by unfold State.setRegLogic; split <;> rfl
@[simp] theorem setRegLogic_rpl (x : Reg) (b : Byte) : (s.setRegLogic x b).rpl = s.rpl := by unfold State.setRegLogic; split <;> rfl
@[simp] theorem setRegLogic_dt (x : Reg) (b : Byte) : (s.setRegLogic x b).dt = s.dt := by unfold State.setRegLogic; split <;> rfl
@[simp] theorem setRegLogic_st (x : Reg) (b : Byte) : (s.setRegLogic x b).st = s.st := by unfold State.setRegLogic; split <;> rfl
@[simp] theorem setRegLogic_mem (x : Reg) (b : Byte) : (s.setRegLogic x b).mem = s.mem := by unfold State.setRegLogic; split <;> rfl
@[simp] theorem setRegLogic_progEnd (x : Reg) (b : Byte) : (s.setRegLogic x b).progEnd = s.progEnd := by unfold State.setRegLogic; split <;> rfl
@[simp] theorem setRegLogic_image (x : Reg) (b : Byte) : (s.setRegLogic x b).image = s.image := by unfold State.setRegLogic; split <;> rfl
@[simp] theorem setRegLogic_fb (x : Reg) (b : Byte) : (s.setRegLogic x b).fb = s.fb := by unfold State.setRegLogic; split <;> rfl
@[simp] theorem setRegLogic_hires (x : Reg) (b : Byte) : (s.setRegLogic x b).hires = s.hires := by unfold State.setRegLogic; split <;> rfl
@[simp] theorem setRegLogic_down (x : Reg) (b : Byte) : (s.setRegLogic x b).down = s.down := by unfold State.setRegLogic; split <;> rfl
@[simp] theorem setRegLogic_armed (x : Reg) (b : Byte) : (s.setRegLogic x b).armed = s.armed := by unfold State.setRegLogic; split <;> rfl
@[simp] theorem setRegLogic_hints (x : Reg) (b : Byte) : (s.setRegLogic x b).hints = s.hints := by unfold State.setRegLogic; split <;> rfl
@[simp] theorem setRegLogic_halted (x : Reg) (b : Byte) : (s.setRegLogic x b).halted = s.halted := by unfold State.setRegLogic; split <;> rfl
@[simp] theorem setRegLogic_fault (x : Reg) (b : Byte) : (s.setRegLogic x b).fault = s.fault := by unfold State.setRegLogic; split <;> rfl
@[simp] theorem setRegLogic_cfg (x : Reg) (b : Byte) : (s.setRegLogic x b).cfg = s.cfg := by unfold State.setRegLogic; split <;> rfl
@[simp] theorem setRegLogic_now (x : Reg) (b : Byte) : (s.setRegLogic x b).now = s.now := by unfold State.setRegLogic; split <;> rfl
@[simp] theorem setRegLogic_inputs (x : Reg) (b : Byte) : (s.setRegLogic x b).inputs = s.inputs := by unfold State.setRegLogic; split <;> rfl
@[simp] theorem setRegLogic_result (x : Reg) (b : Byte) : (s.setRegLogic x b).result = s.result := by unfold State.setRegLogic; split <;> rfl
@[simp] theorem setRegLogic_draws (x : Reg) (b : Byte) : (s.setRegLogic x b).draws = s.draws := by unfold State.setRegLogic; split <;> rfl

@[simp] theorem setI_v (a : Addr) : (s.setI a).v = s.v := rfl
@[simp] theorem setI_pc (a : Addr) : (s.setI a).pc = s.pc := rfl
@[simp] theorem setI_sp (a : Addr) : (s.setI a).sp = s.sp := rfl
@[simp] theorem setI_stack (a : Addr) : (s.setI a).stack = s.stack := rfl
@[simp] theorem setI_rpl (a : Addr) : (s.setI a).rpl = s.rpl := rfl
@[simp] theorem setI_dt (a : Addr) : (s.setI a).dt = s.dt := rfl
@[simp] theorem setI_st (a : Addr) : (s.setI a).st = s.st := rfl
@[simp] theorem setI_mem (a : Addr) : (s.setI a).mem = s.mem := rfl
@[simp] theorem setI_progEnd (a : Addr) : (s.setI a).progEnd = s.progEnd := rfl
@[simp] theorem setI_image (a : Addr) : (s.setI a).image = s.image := rfl
@[simp] theorem setI_fb (a : Addr) : (s.setI a).fb = s.fb := rfl
@[simp] theorem setI_hires (a : Addr) : (s.setI a).hires = s.hires := rfl
@[simp] theorem setI_down (a : Addr) : (s.setI a).down = s.down := rfl
@[simp] theorem setI_armed (a : Addr) : (s.setI a).armed = s.armed := rfl
@[simp] theorem setI_hints (a : Addr) : (s.setI a).hints = s.hints := rfl
@[simp] theorem setI_halted (a : Addr) : (s.setI a).halted = s.halted := rfl
@[simp] theorem setI_fault (a : Addr) : (s.setI a).fault = s.fault := rfl
@[simp] theorem setI_cfg (a : Addr) : (s.setI a).cfg = s.cfg := rfl
@[simp] theorem setI_now (a : Addr) : (s.setI a).now = s.now := rfl
@[simp] theorem setI_inputs (a : Addr) : (s.setI a).inputs = s.inputs := rfl
@[simp] theorem setI_result (a : Addr) : (s.setI a).result = s.result := rfl
@[simp] theorem setI_draws (a : Addr) : (s.setI a).draws = s.draws := rfl

@[simp] theorem bumpI_v (x : Reg) : (s.bumpI x).v = s.v := by unfold State.bumpI; split <;> rfl
@[simp] theorem bumpI_pc (x : Reg) : (s.bumpI x).pc = s.pc := by unfold State.bumpI; split <;> rfl
@[simp] theorem bumpI_sp (x : Reg) : (s.bumpI x).sp = s.sp := by unfold State.bumpI; split <;> rfl
@[simp] theorem bumpI_stack (x : Reg) : (s.bumpI x).stack = s.stack := by unfold State.bumpI; split <;> rfl
@[simp] theorem bumpI_rpl (x : Reg) : (s.bumpI x).rpl = s.rpl := by unfold State.bumpI; split <;> rfl
@[simp] theorem bumpI_dt (x : Reg) : (s.bumpI x).dt = s.dt := by unfold State.bumpI; split <;> rfl
@[simp] theorem bumpI_st (x : Reg) : (s.bumpI x).st = s.st := by unfold State.bumpI; split <;> rfl
@[simp] theorem bumpI_mem (x : Reg) : (s.bumpI x).mem = s.mem := by unfold State.bumpI; split <;> rfl
@[simp] theorem bumpI_progEnd (x : Reg) : (s.bumpI x).progEnd = s.progEnd := by unfold State.bumpI; split <;> rfl
@[simp] theorem bumpI_image (x : Reg) : (s.bumpI x).image = s.image := by unfold State.bumpI; split <;> rfl
@[simp] theorem bumpI_fb (x : Reg) : (s.bumpI x).fb = s.fb := by unfold State.bumpI; split <;> rfl
@[simp] theorem bumpI_hires (x : Reg) : (s.bumpI x).hires = s.hires := by unfold State.bumpI; split <;> rfl
@[simp] theorem bumpI_down (x : Reg) : (s.bumpI x).down = s.down := by unfold State.bumpI; split <;> rfl
@[simp] theorem bumpI_armed (x : Reg) : (s.bumpI x).armed = s.armed := by unfold State.bumpI; split <;> rfl
@[simp] theorem bumpI_hints (x : Reg) : (s.bumpI x).hints = s.hints := by unfold State.bumpI; split <;> rfl
@[simp] theorem bumpI_halted (x : Reg) : (s.bumpI x).halted = s.halted := by unfold State.bumpI; split <;> rfl
@[simp] theorem bumpI_fault (x : Reg) : (s.bumpI x).fault = s.fault := by unfold State.bumpI; split <;> rfl
@[simp] theorem bumpI_cfg (x : Reg) : (s.bumpI x).cfg = s.cfg := by unfold State.bumpI; split <;> rfl
@[simp] theorem bumpI_now (x : Reg) : (s.bumpI x).now = s.now := by unfold State.bumpI; split <;> rfl
@[simp] theorem bumpI_inputs (x : Reg) : (s.bumpI x).inputs = s.inputs := by unfold State.bumpI; split <;> rfl
@[simp] theorem bumpI_result (x : Reg) : (s.bumpI x).result = s.result := by unfold State.bumpI; split <;> rfl
@[simp] theorem bumpI_draws (x : Reg) : (s.bumpI x).draws = s.draws := by unfold State.bumpI; split <;> rfl

@[simp] theorem setPc_v (a : Addr) : (s.setPc a).v = s.v := rfl
@[simp] theorem setPc_i (a : Addr) : (s.setPc a).i = s.i := rfl
@[simp] theorem setPc_sp (a : Addr) : (s.setPc a).sp = s.sp := rfl
@[simp] theorem setPc_stack (a : Addr) : (s.setPc a).stack = s.stack := rfl
@[simp] theorem setPc_rpl (a : Addr) : (s.setPc a).rpl = s.rpl := rfl
@[simp] theorem setPc_dt (a : Addr) : (s.setPc a).dt = s.dt := rfl
@[simp] theorem setPc_st (a : Addr) : (s.setPc a).st = s.st := rfl
@[simp] theorem setPc_mem (a : Addr) : (s.setPc a).mem = s.mem := rfl
@[simp] theorem setPc_progEnd (a : Addr) : (s.setPc a).progEnd = s.progEnd := rfl
@[simp] theorem setPc_image (a : Addr) : (s.setPc a).image = s.image := rfl
@[simp] theorem setPc_fb (a : Addr) : (s.setPc a).fb = s.fb := rfl
@[simp] theorem setPc_hires (a : Addr) : (s.setPc a).hires = s.hires := rfl
@[simp] theorem setPc_down (a : Addr) : (s.setPc a).down = s.down := rfl
@[simp] theorem setPc_armed (a : Addr) : (s.setPc a).armed = s.armed := rfl
@[simp] theorem setPc_hints (a : Addr) : (s.setPc a).hints = s.hints := rfl
@[simp] theorem setPc_halted (a : Addr) : (s.setPc a).halted = s.halted := rfl
@[simp] theorem setPc_fault (a : Addr) : (s.setPc a).fault = s.fault := rfl
@[simp] theorem setPc_cfg (a : Addr) : (s.setPc a).cfg = s.cfg := rfl
@[simp] theorem setPc_now (a : Addr) : (s.setPc a).now = s.now := rfl
@[simp] theorem setPc_inputs (a : Addr) : (s.setPc a).inputs = s.inputs := rfl
@[simp] theorem setPc_result (a : Addr) : (s.setPc a).result = s.result := rfl
@[simp] theorem setPc_draws (a : Addr) : (s.setPc a).draws = s.draws := rfl

@[simp] theorem goto_v (t : Nat) : (s.goto t).v = s.v := rfl
@[simp] theorem goto_i (t : Nat) : (s.goto t).i = s.i := rfl
@[simp] theorem goto_sp (t : Nat) : (s.goto t).sp = s.sp := rfl
@[simp] theorem goto_stack (t : Nat) : (s.goto t).stack = s.stack := rfl
@[simp] theorem goto_rpl (t : Nat) : (s.goto t).rpl = s.rpl := rfl
@[simp] theorem goto_dt (t : Nat) : (s.goto t).dt = s.dt := rfl
@[simp] theorem goto_st (t : Nat) : (s.goto t).st = s.st := rfl
@[simp] theorem goto_mem (t : Nat) : (s.goto t).mem = s.mem := rfl
@[simp] theorem goto_progEnd (t : Nat) : (s.goto t).progEnd = s.progEnd := rfl
@[simp] theorem goto_image (t : Nat) : (s.goto t).image = s.image := rfl
@[simp] theorem goto_fb (t : Nat) : (s.goto t).fb = s.fb := rfl
@[simp] theorem goto_hires (t : Nat) : (s.goto t).hires = s.hires := rfl
@[simp] theorem goto_down (t : Nat) : (s.goto t).down = s.down := rfl
@[simp] theorem goto_armed (t : Nat) : (s.goto t).armed = s.armed := rfl
@[simp] theorem goto_hints (t : Nat) : (s.goto t).hints = s.hints := rfl
@[simp] theorem goto_halted (t : Nat) : (s.goto t).halted = s.halted := rfl
@[simp] theorem goto_fault (t : Nat) : (s.goto t).fault = s.fault := rfl
@[simp] theorem goto_cfg (t : Nat) : (s.goto t).cfg = s.cfg := rfl
@[simp] theorem goto_now (t : Nat) : (s.goto t).now = s.now := rfl
@[simp] theorem goto_inputs (t : Nat) : (s.goto t).inputs = s.inputs := rfl
@[simp] theorem goto_result (t : Nat) : (s.goto t).result = s.result := rfl
@[simp] theorem goto_draws (t : Nat) : (s.goto t).draws = s.draws := rfl

@[simp] theorem skip_v : (s.skip).v = s.v := rfl
@[simp] theorem skip_i : (s.skip).i = s.i := rfl
@[simp] theorem skip_sp : (s.skip).sp = s.sp := rfl
@[simp] theorem skip_stack : (s.skip).stack = s.stack := rfl
@[simp] theorem skip_rpl : (s.skip).rpl = s.rpl := rfl
@[simp] theorem skip_dt : (s.skip).dt = s.dt := rfl
@[simp] theorem skip_st : (s.skip).st = s.st := rfl
@[simp] theorem skip_mem : (s.skip).mem = s.mem := rfl
@[simp] theorem skip_progEnd : (s.skip).progEnd = s.progEnd := rfl
@[simp] theorem skip_image : (s.skip).image = s.image := rfl
@[simp] theorem skip_fb : (s.skip).fb = s.fb := rfl
@[simp] theorem skip_hires : (s.skip).hires = s.hires := rfl
@[simp] theorem skip_down : (s.skip).down = s.down := rfl
@[simp] theorem skip_armed : (s.skip).armed = s.armed := rfl
@[simp] theorem skip_hints : (s.skip).hints = s.hints := rfl
@[simp] theorem skip_halted : (s.skip).halted = s.halted := rfl
@[simp] theorem skip_fault : (s.skip).fault = s.fault := rfl
@[simp] theorem skip_cfg : (s.skip).cfg = s.cfg := rfl
@[simp] theorem skip_now : (s.skip).now = s.now := rfl
@[simp] theorem skip_inputs : (s.skip).inputs = s.inputs := rfl
@[simp] theorem skip_result : (s.skip).result = s.result := rfl
@[simp] theorem skip_draws : (s.skip).draws = s.draws := rfl

@[simp] theorem skipIf_v (c : Bool) : (s.skipIf c).v = s.v := by cases c <;> rfl
@[simp] theorem skipIf_i (c : Bool) : (s.skipIf c).i = s.i := by cases c <;> rfl
@[simp] theorem skipIf_sp (c : Bool) : (s.skipIf c).sp = s.sp := by cases c <;> rfl
@[simp] theorem skipIf_stack (c : Bool) : (s.skipIf c).stack = s.stack := by cases c <;> rfl
@[simp] theorem skipIf_rpl (c : Bool) : (s.skipIf c).rpl = s.rpl := by cases c <;> rfl
@[simp] theorem skipIf_dt (c : Bool) : (s.skipIf c).dt = s.dt := by cases c <;> rfl
@[simp] theorem skipIf_st (c : Bool) : (s.skipIf c).st = s.st := by cases c <;> rfl
@[simp] theorem skipIf_mem (c : Bool) : (s.skipIf c).mem = s.mem := by cases c <;> rfl
@[simp] theorem skipIf_progEnd (c : Bool) : (s.skipIf c).progEnd = s.progEnd := by cases c <;> rfl
@[simp] theorem skipIf_image (c : Bool) : (s.skipIf c).image = s.image := by cases c <;> rfl
@[simp] theorem skipIf_fb (c : Bool) : (s.skipIf c).fb = s.fb := by cases c <;> rfl
@[simp] theorem skipIf_hires (c : Bool) : (s.skipIf c).hires = s.hires := by cases c <;> rfl
@[simp] theorem skipIf_down (c : Bool) : (s.skipIf c).down = s.down := by cases c <;> rfl
@[simp] theorem skipIf_armed (c : Bool) : (s.skipIf c).armed = s.armed := by cases c <;> rfl
@[simp] theorem skipIf_hints (c : Bool) : (s.skipIf c).hints = s.hints := by cases c <;> rfl
@[simp] theorem skipIf_halted (c : Bool) : (s.skipIf c).halted = s.halted := by cases c <;> rfl
@[simp] theorem skipIf_fault (c : Bool) : (s.skipIf c).fault = s.fault := by cases c <;> rfl
@[simp] theorem skipIf_cfg (c : Bool) : (s.skipIf c).cfg = s.cfg := by cases c <;> rfl
@[simp] theorem skipIf_now (c : Bool) : (s.skipIf c).now = s.now := by cases c <;> rfl
@[simp] theorem skipIf_inputs (c : Bool) : (s.skipIf c).inputs = s.inputs := by cases c <;> rfl
@[simp] theorem skipIf_result (c : Bool) : (s.skipIf c).result = s.result := by cases c <;> rfl
@[simp] theorem skipIf_draws (c : Bool) : (s.skipIf c).draws = s.draws := by cases c <;> rfl

@[simp] theorem rewind_v : (s.rewind).v = s.v := rfl
@[simp] theorem rewind_i : (s.rewind).i = s.i := rfl
@[simp] theorem rewind_sp : (s.rewind).sp = s.sp := rfl
@[simp] theorem rewind_stack : (s.rewind).stack = s.stack := rfl
@[simp] theorem rewind_rpl : (s.rewind).rpl = s.rpl := rfl
@[simp] theorem rewind_dt : (s.rewind).dt = s.dt := rfl
@[simp] theorem rewind_st : (s.rewind).st = s.st := rfl
@[simp] theorem rewind_mem : (s.rewind).mem = s.mem := rfl
@[simp] theorem rewind_progEnd : (s.rewind).progEnd = s.progEnd := rfl
@[simp] theorem rewind_image : (s.rewind).image = s.image := rfl
@[simp] theorem rewind_fb : (s.rewind).fb = s.fb := rfl
@[simp] theorem rewind_hires : (s.rewind).hires = s.hires := rfl
@[simp] theorem rewind_down : (s.rewind).down = s.down := rfl
@[simp] theorem rewind_armed : (s.rewind).armed = s.armed := rfl
@[simp] theorem rewind_hints : (s.rewind).hints = s.hints := rfl
@[simp] theorem rewind_halted : (s.rewind).halted = s.halted := rfl
@[simp] theorem rewind_fault : (s.rewind).fault = s.fault := rfl
@[simp] theorem rewind_cfg : (s.rewind).cfg = s.cfg := rfl
@[simp] theorem rewind_now : (s.rewind).now = s.now := rfl
@[simp] theorem rewind_inputs : (s.rewind).inputs = s.inputs := rfl
@[simp] theorem rewind_result : (s.rewind).result = s.result := rfl
@[simp] theorem rewind_draws : (s.rewind).draws = s.draws := rfl

@[simp] theorem storeBytes_v (a : Nat) (bs : List Byte) : (s.storeBytes a bs).v = s.v := rfl
@[simp] theorem storeBytes_i (a : Nat) (bs : List Byte) : (s.storeBytes a bs).i = s.i := rfl
@[simp] theorem storeBytes_pc (a : Nat) (bs : List Byte) : (s.storeBytes a bs).pc = s.pc := rfl
@[simp] theorem storeBytes_sp (a : Nat) (bs : List Byte) : (s.storeBytes a bs).sp = s.sp := rfl
@[simp] theorem storeBytes_stack (a : Nat) (bs : List Byte) : (s.storeBytes a bs).stack = s.stack := rfl
@[simp] theorem storeBytes_rpl (a : Nat) (bs : List Byte) : (s.storeBytes a bs).rpl = s.rpl := rfl
@[simp] theorem storeBytes_dt (a : Nat) (bs : List Byte) : (s.storeBytes a bs).dt = s.dt := rfl
@[simp] theorem storeBytes_st (a : Nat) (bs : List Byte) : (s.storeBytes a bs).st = s.st := rfl
@[simp] theorem storeBytes_progEnd (a : Nat) (bs : List Byte) : (s.storeBytes a bs).progEnd = s.progEnd := rfl
@[simp] theorem storeBytes_image (a : Nat) (bs : List Byte) : (s.storeBytes a bs).image = s.image := rfl
@[simp] theorem storeBytes_fb (a : Nat) (bs : List Byte) : (s.storeBytes a bs).fb = s.fb := rfl
@[simp] theorem storeBytes_hires (a : Nat) (bs : List Byte) : (s.storeBytes a bs).hires = s.hires := rfl
@[simp] theorem storeBytes_down (a : Nat) (bs : List Byte) : (s.storeBytes a bs).down = s.down := rfl
@[simp] theorem storeBytes_armed (a : Nat) (bs : List Byte) : (s.storeBytes a bs).armed = s.armed := rfl
@[simp] theorem storeBytes_hints (a : Nat) (bs : List Byte) : (s.storeBytes a bs).hints = s.hints := rfl
@[simp] theorem storeBytes_halted (a : Nat) (bs : List Byte) : (s.storeBytes a bs).halted = s.halted := rfl
@[simp] theorem storeBytes_fault (a : Nat) (bs : List Byte) : (s.storeBytes a bs).fault = s.fault := rfl
@[simp] theorem storeBytes_cfg (a : Nat) (bs : List Byte) : (s.storeBytes a bs).cfg = s.cfg := rfl
@[simp] theorem storeBytes_now (a : Nat) (bs : List Byte) : (s.storeBytes a bs).now = s.now := rfl
@[simp] theorem storeBytes_inputs (a : Nat) (bs : List Byte) : (s.storeBytes a bs).inputs = s.inputs := rfl
@[simp] theorem storeBytes_result (a : Nat) (bs : List Byte) : (s.storeBytes a bs).result = s.result := rfl
@[simp] theorem storeBytes_draws (a : Nat) (bs : List Byte) : (s.storeBytes a bs).draws = s.draws := rfl

@[simp] theorem takeFault_v (c : FaultCode) (w : Option Word) (a : Option Nat) : (s.takeFault c w a).v = s.v := rfl
@[simp] theorem takeFault_i (c : FaultCode) (w : Option Word) (a : Option Nat) : (s.takeFault c w a).i = s.i := rfl
@[simp] theorem takeFault_pc (c : FaultCode) (w : Option Word) (a : Option Nat) : (s.takeFault c w a).pc = s.pc := rfl
@[simp] theorem takeFault_sp (c : FaultCode) (w : Option Word) (a : Option Nat) : (s.takeFault c w a).sp = s.sp := rfl
@[simp] theorem takeFault_stack (c : FaultCode) (w : Option Word) (a : Option Nat) : (s.takeFault c w a).stack = s.stack := rfl
@[simp] theorem takeFault_rpl (c : FaultCode) (w : Option Word) (a : Option Nat) : (s.takeFault c w a).rpl = s.rpl := rfl
@[simp] theorem takeFault_dt (c : FaultCode) (w : Option Word) (a : Option Nat) : (s.takeFault c w a).dt = s.dt := rfl
@[simp] theorem takeFault_st (c : FaultCode) (w : Option Word) (a : Option Nat) : (s.takeFault c w a).st = s.st := rfl
@[simp] theorem takeFault_mem (c : FaultCode) (w : Option Word) (a : Option Nat) : (s.takeFault c w a).mem = s.mem := rfl
@[simp] theorem takeFault_progEnd (c : FaultCode) (w : Option Word) (a : Option Nat) : (s.takeFault c w a).progEnd = s.progEnd := rfl
@[simp] theorem takeFault_image (c : FaultCode) (w : Option Word) (a : Option Nat) : (s.takeFault c w a).image = s.image := rfl
@[simp] theorem takeFault_fb (c : FaultCode) (w : Option Word) (a : Option Nat) : (s.takeFault c w a).fb = s.fb := rfl
@[simp] theorem takeFault_hires (c : FaultCode) (w : Option Word) (a : Option Nat) : (s.takeFault c w a).hires = s.hires := rfl
@[simp] theorem takeFault_down (c : FaultCode) (w : Option Word) (a : Option Nat) : (s.takeFault c w a).down = s.down := rfl
@[simp] theorem takeFault_armed (c : FaultCode) (w : Option Word) (a : Option Nat) : (s.takeFault c w a).armed = s.armed := rfl
@[simp] theorem takeFault_hints (c : FaultCode) (w : Option Word) (a : Option Nat) : (s.takeFault c w a).hints = s.hints := rfl
@[simp] theorem takeFault_halted (c : FaultCode) (w : Option Word) (a : Option Nat) : (s.takeFault c w a).halted = s.halted := rfl
@[simp] theorem takeFault_cfg (c : FaultCode) (w : Option Word) (a : Option Nat) : (s.takeFault c w a).cfg = s.cfg := rfl
@[simp] theorem takeFault_now (c : FaultCode) (w : Option Word) (a : Option Nat) : (s.takeFault c w a).now = s.now := rfl
@[simp] theorem takeFault_inputs (c : FaultCode) (w : Option Word) (a : Option Nat) : (s.takeFault c w a).inputs = s.inputs := rfl
@[simp] theorem takeFault_result (c : FaultCode) (w : Option Word) (a : Option Nat) : (s.takeFault c w a).result = s.result := rfl
@[simp] theorem takeFault_draws (c : FaultCode) (w : Option Word) (a : Option Nat) : (s.takeFault c w a).draws = s.draws := rfl

@[simp] theorem advance_v : (s.advance).v = s.v := rfl
@[simp] theorem advance_i : (s.advance).i = s.i := rfl
@[simp] theorem advance_sp : (s.advance).sp = s.sp := rfl
@[simp] theorem advance_stack : (s.advance).stack = s.stack := rfl
@[simp] theorem advance_rpl : (s.advance).rpl = s.rpl := rfl
@[simp] theorem advance_dt : (s.advance).dt = s.dt := rfl
@[simp] theorem advance_st : (s.advance).st = s.st := rfl
@[simp] theorem advance_mem : (s.advance).mem = s.mem := rfl
@[simp] theorem advance_progEnd : (s.advance).progEnd = s.progEnd := rfl
@[simp] theorem advance_image : (s.advance).image = s.image := rfl
@[simp] theorem advance_fb : (s.advance).fb = s.fb := rfl
@[simp] theorem advance_hires : (s.advance).hires = s.hires := rfl
@[simp] theorem advance_down : (s.advance).down = s.down := rfl
@[simp] theorem advance_armed : (s.advance).armed = s.armed := rfl
@[simp] theorem advance_hints : (s.advance).hints = s.hints := rfl
@[simp] theorem advance_halted : (s.advance).halted = s.halted := rfl
@[simp] theorem advance_fault : (s.advance).fault = s.fault := rfl
@[simp] theorem advance_cfg : (s.advance).cfg = s.cfg := rfl
@[simp] theorem advance_now : (s.advance).now = s.now := rfl
@[simp] theorem advance_inputs : (s.advance).inputs = s.inputs := rfl
@[simp] theorem advance_draws : (s.advance).draws = s.draws := rfl

@[simp] theorem draw_v (x y : Byte) (rows : List Nat) (n : Nat) : ((s.draw x y rows n).1).v = s.v := rfl
@[simp] theorem draw_i (x y : Byte) (rows : List Nat) (n : Nat) : ((s.draw x y rows n).1).i = s.i := rfl
@[simp] theorem draw_pc (x y : Byte) (rows : List Nat) (n : Nat) : ((s.draw x y rows n).1).pc = s.pc := rfl
@[simp] theorem draw_sp (x y : Byte) (rows : List Nat) (n : Nat) : ((s.draw x y rows n).1).sp = s.sp := rfl
@[simp] theorem draw_stack (x y : Byte) (rows : List Nat) (n : Nat) : ((s.draw x y rows n).1).stack = s.stack := rfl
@[simp] theorem draw_rpl (x y : Byte) (rows : List Nat) (n : Nat) : ((s.draw x y rows n).1).rpl = s.rpl := rfl
@[simp] theorem draw_dt (x y : Byte) (rows : List Nat) (n : Nat) : ((s.draw x y rows n).1).dt = s.dt := rfl
@[simp] theorem draw_st (x y : Byte) (rows : List Nat) (n : Nat) : ((s.draw x y rows n).1).st = s.st := rfl
@[simp] theorem draw_mem (x y : Byte) (rows : List Nat) (n : Nat) : ((s.draw x y rows n).1).mem = s.mem := rfl
@[simp] theorem draw_progEnd (x y : Byte) (rows : List Nat) (n : Nat) : ((s.draw x y rows n).1).progEnd = s.progEnd := rfl
@[simp] theorem draw_image (x y : Byte) (rows : List Nat) (n : Nat) : ((s.draw x y rows n).1).image = s.image := rfl
@[simp] theorem draw_hires (x y : Byte) (rows : List Nat) (n : Nat) : ((s.draw x y rows n).1).hires = s.hires := rfl
@[simp] theorem draw_down (x y : Byte) (rows : List Nat) (n : Nat) : ((s.draw x y rows n).1).down = s.down := rfl
@[simp] theorem draw_armed (x y : Byte) (rows : List Nat) (n : Nat) : ((s.draw x y rows n).1).armed = s.armed := rfl
@[simp] theorem draw_hints (x y : Byte) (rows : List Nat) (n : Nat) : ((s.draw x y rows n).1).hints = s.hints := rfl
@[simp] theorem draw_halted (x y : Byte) (rows : List Nat) (n : Nat) : ((s.draw x y rows n).1).halted = s.halted := rfl
@[simp] theorem draw_fault (x y : Byte) (rows : List Nat) (n : Nat) : ((s.draw x y rows n).1).fault = s.fault := rfl
@[simp] theorem draw_cfg (x y : Byte) (rows : List Nat) (n : Nat) : ((s.draw x y rows n).1).cfg = s.cfg := rfl
@[simp] theorem draw_now (x y : Byte) (rows : List Nat) (n : Nat) : ((s.draw x y rows n).1).now = s.now := rfl
@[simp] theorem draw_inputs (x y : Byte) (rows : List Nat) (n : Nat) : ((s.draw x y rows n).1).inputs = s.inputs := rfl
@[simp] theorem draw_result (x y : Byte) (rows : List Nat) (n : Nat) : ((s.draw x y rows n).1).result = s.result := rfl
@[simp] theorem draw_draws (x y : Byte) (rows : List Nat) (n : Nat) : ((s.draw x y rows n).1).draws = s.draws := rfl

@[simp] theorem scroll_v (d : Direction) (k : Nat) : (s.scroll d k).v = s.v := rfl
@[simp] theorem scroll_i (d : Direction) (k : Nat) : (s.scroll d k).i = s.i := rfl
@[simp] theorem scroll_pc (d : Direction) (k : Nat) : (s.scroll d k).pc = s.pc := rfl
@[simp] theorem scroll_sp (d : Direction) (k : Nat) : (s.scroll d k).sp = s.sp := rfl
@[simp] theorem scroll_stack (d : Direction) (k : Nat) : (s.scroll d k).stack = s.stack := rfl
@[simp] theorem scroll_rpl (d : Direction) (k : Nat) : (s.scroll d k).rpl = s.rpl := rfl
@[simp] theorem scroll_dt (d : Direction) (k : Nat) : (s.scroll d k).dt = s.dt := rfl
@[simp] theorem scroll_st (d : Direction) (k : Nat) : (s.scroll d k).st = s.st := rfl
@[simp] theorem scroll_mem (d : Direction) (k : Nat) : (s.scroll d k).mem = s.mem := rfl
@[simp] theorem scroll_progEnd (d : Direction) (k : Nat) : (s.scroll d k).progEnd = s.progEnd := rfl
@[simp] theorem scroll_image (d : Direction) (k : Nat) : (s.scroll d k).image = s.image := rfl
@[simp] theorem scroll_hires (d : Direction) (k : Nat) : (s.scroll d k).hires = s.hires := rfl
@[simp] theorem scroll_down (d : Direction) (k : Nat) : (s.scroll d k).down = s.down := rfl
@[simp] theorem scroll_armed (d : Direction) (k : Nat) : (s.scroll d k).armed = s.armed := rfl
@[simp] theorem scroll_hints (d : Direction) (k : Nat) : (s.scroll d k).hints = s.hints := rfl
@[simp] theorem scroll_halted (d : Direction) (k : Nat) : (s.scroll d k).halted = s.halted := rfl
@[simp] theorem scroll_fault (d : Direction) (k : Nat) : (s.scroll d k).fault = s.fault := rfl
@[simp] theorem scroll_cfg (d : Direction) (k : Nat) : (s.scroll d k).cfg = s.cfg := rfl
@[simp] theorem scroll_now (d : Direction) (k : Nat) : (s.scroll d k).now = s.now := rfl
@[simp] theorem scroll_inputs (d : Direction) (k : Nat) : (s.scroll d k).inputs = s.inputs := rfl
@[simp] theorem scroll_result (d : Direction) (k : Nat) : (s.scroll d k).result = s.result := rfl
@[simp] theorem scroll_draws (d : Direction) (k : Nat) : (s.scroll d k).draws = s.draws := rfl

@[simp] theorem setMode_v (m : Bool) : (s.setMode m).v = s.v := rfl
@[simp] theorem setMode_i (m : Bool) : (s.setMode m).i = s.i := rfl
@[simp] theorem setMode_pc (m : Bool) : (s.setMode m).pc = s.pc := rfl
@[simp] theorem setMode_sp (m : Bool) : (s.setMode m).sp = s.sp := rfl
@[simp] theorem setMode_stack (m : Bool) : (s.setMode m).stack = s.stack := rfl
@[simp] theorem setMode_rpl (m : Bool) : (s.setMode m).rpl = s.rpl := rfl
@[simp] theorem setMode_dt (m : Bool) : (s.setMode m).dt = s.dt := rfl
@[simp] theorem setMode_st (m : Bool) : (s.setMode m).st = s.st := rfl
@[simp] theorem setMode_mem (m : Bool) : (s.setMode m).mem = s.mem := rfl
@[simp] theorem setMode_progEnd (m : Bool) : (s.setMode m).progEnd = s.progEnd := rfl
@[simp] theorem setMode_image (m : Bool) : (s.setMode m).image = s.image := rfl
@[simp] theorem setMode_down (m : Bool) : (s.setMode m).down = s.down := rfl
@[simp] theorem setMode_armed (m : Bool) : (s.setMode m).armed = s.armed := rfl
@[simp] theorem setMode_hints (m : Bool) : (s.setMode m).hints = s.hints := rfl
@[simp] theorem setMode_halted (m : Bool) : (s.setMode m).halted = s.halted := rfl
@[simp] theorem setMode_fault (m : Bool) : (s.setMode m).fault = s.fault := rfl
@[simp] theorem setMode_cfg (m : Bool) : (s.setMode m).cfg = s.cfg := rfl
@[simp] theorem setMode_now (m : Bool) : (s.setMode m).now = s.now := rfl
@[simp] theorem setMode_inputs (m : Bool) : (s.setMode m).inputs = s.inputs := rfl
@[simp] theorem setMode_result (m : Bool) : (s.setMode m).result = s.result := rfl
@[simp] theorem setMode_draws (m : Bool) : (s.setMode m).draws = s.draws := rfl

@[simp] theorem clear_v : (s.clear).v = s.v := rfl
@[simp] theorem clear_i : (s.clear).i = s.i := rfl
@[simp] theorem clear_pc : (s.clear).pc = s.pc := rfl
@[simp] theorem clear_sp : (s.clear).sp = s.sp := rfl
@[simp] theorem clear_stack : (s.clear).stack = s.stack := rfl
@[simp] theorem clear_rpl : (s.clear).rpl = s.rpl := rfl
@[simp] theorem clear_dt : (s.clear).dt = s.dt := rfl
@[simp] theorem clear_st : (s.clear).st = s.st := rfl
@[simp] theorem clear_mem : (s.clear).mem = s.mem := rfl
@[simp] theorem clear_progEnd : (s.clear).progEnd = s.progEnd := rfl
@[simp] theorem clear_image : (s.clear).image = s.image := rfl
@[simp] theorem clear_hires : (s.clear).hires = s.hires := rfl
@[simp] theorem clear_down : (s.clear).down = s.down := rfl
@[simp] theorem clear_armed : (s.clear).armed = s.armed := rfl
@[simp] theorem clear_hints : (s.clear).hints = s.hints := rfl
@[simp] theorem clear_halted : (s.clear).halted = s.halted := rfl
@[simp] theorem clear_fault : (s.clear).fault = s.fault := rfl
@[simp] theorem clear_cfg : (s.clear).cfg = s.cfg := rfl
@[simp] theorem clear_now : (s.clear).now = s.now := rfl
@[simp] theorem clear_inputs : (s.clear).inputs = s.inputs := rfl
@[simp] theorem clear_result : (s.clear).result = s.result := rfl

/-! ## What each update writes -/

@[simp] theorem setI_i (a : Addr) : (s.setI a).i = a := rfl
@[simp] theorem setPc_pc (a : Addr) : (s.setPc a).pc = a := rfl
@[simp] theorem goto_pc (t : Nat) : (s.goto t).pc = BitVec.ofNat 12 t - 2#12 := rfl
@[simp] theorem skip_pc : s.skip.pc = s.pc + 2#12 := rfl
@[simp] theorem skipIf_pc (c : Bool) : (s.skipIf c).pc = if c then s.pc + 2#12 else s.pc := by cases c <;> rfl
@[simp] theorem rewind_pc : s.rewind.pc = s.pc - 2#12 := rfl
@[simp] theorem advance_pc : s.advance.pc = s.pc + 2#12 := rfl
@[simp] theorem advance_result : s.advance.result = none := rfl
@[simp] theorem setMode_hires (m : Bool) : (s.setMode m).hires = m := rfl
@[simp] theorem clear_draws : s.clear.draws = s.draws + 1 := rfl
@[simp] theorem takeFault_fault (c : FaultCode) (w : Option Word) (a : Option Nat) :
    (s.takeFault c w a).fault = some { code := c, fetchAddr := s.pc, word := w, addr := a } := rfl

/-! ## Registers -/

/-- Reading a register after a register write (R13). -/
@[simp] theorem reg_setReg (x y : Reg) (b : Byte) : (s.setReg x b).reg y = if y = x then b else s.reg y := by
  by_cases h : y = x
  · subst h; simp [State.reg, State.setReg]
  · have hn : x.toNat ≠ y.toNat := fun e => h (BitVec.eq_of_toNat_eq e.symm)
    simp [State.reg, State.setReg, h, Vector.getElem_set_ne _ _ hn]

/-- Reading a register after a result and its flag were written: the flag survives (D7). -/
@[simp] theorem reg_setRegFlag (x y : Reg) (b f : Byte) :
    (s.setRegFlag x b f).reg y = if y = VF then f else if y = x then b else s.reg y := by
  simp [State.setRegFlag]

/-- Reading a register after a logic instruction: VF is cleared under Vip only (R194). -/
@[simp] theorem reg_setRegLogic (x y : Reg) (b : Byte) :
    (s.setRegLogic x b).reg y =
      if y = VF ∧ s.cfg.profile = .vip then 0#8 else if y = x then b else s.reg y := by
  cases hp : s.cfg.profile <;> simp [State.setRegLogic, hp]

theorem reg_congr (t : State) (h : t.v = s.v) (x : Reg) : t.reg x = s.reg x := by simp [State.reg, h]

/-- Writing bytes into a register file: slot `j` takes its byte, or stays. -/
theorem getElem_setFrom {n : Nat} (bs : List Byte) : ∀ (v : Vector Byte n) (k j : Nat) (hj : j < n),
    (setFrom v k bs)[j] = if k ≤ j ∧ j < k + bs.length then bs.getD (j - k) 0#8 else v[j] := by
  induction bs with
  | nil => intro v k j hj; simp [setFrom]
  | cons b bs ih =>
    intro v k j hj
    rw [setFrom, ih, Vector.getElem_setIfInBounds]
    rcases Nat.lt_trichotomy j k with h | h | h
    · rw [if_neg (by omega), if_neg (by omega), if_neg (by omega)]
    · subst h; simp
    · have e : j - k = (j - (k + 1)) + 1 := by omega
      by_cases hl : j < k + 1 + bs.length
      · rw [if_pos ⟨by omega, hl⟩, if_pos ⟨by omega, by simp; omega⟩, e, List.getD_cons_succ]
      · rw [if_neg (by omega), if_neg (by omega), if_neg (by simp; omega)]

end Sys2Proof.Machine
end

