-- ==== Sys2Proof/Laws/Gpu.lean ====
section
/-! SUPPORT. The laws of the framebuffer: pixels of a grid, toggling, and the draw loop. -/

namespace Sys2Proof.Machine

/-- A framebuffer of `h` rows of `w` pixels. -/
def Sized (w h : Nat) (fb : Framebuffer) : Prop := fb.length = h ∧ ∀ row ∈ fb, row.length = w

/-- A state's grid has its size exactly when its framebuffer has the configuration's. -/
theorem gridSized_iff (s : State) : s.GridSized ↔ Sized s.cfg.backW s.cfg.backH s.fb := Iff.rfl

/-- A pixel inside a grid. -/
theorem pixel_grid (w h : Nat) (f : Nat → Nat → Bool) (x y : Nat) :
    pixel (grid w h f) x y = if x < w ∧ y < h then f x y else false := by
  by_cases hy : y < h <;> by_cases hx : x < w <;> simp [pixel, grid, hx, hy]

theorem sized_grid (w h : Nat) (f : Nat → Nat → Bool) : Sized w h (grid w h f) := by
  constructor <;> simp [grid]

theorem pixel_blankGrid (w h x y : Nat) : pixel (blankGrid w h) x y = false := by
  by_cases hy : y < h <;> by_cases hx : x < w <;> simp [pixel, blankGrid, hx, hy]

theorem sized_blankGrid (w h : Nat) : Sized w h (blankGrid w h) := by
  constructor
  · simp [blankGrid]
  · intro row hr; rw [blankGrid, List.mem_replicate] at hr; simp [hr.2]

/-- Outside its size a framebuffer reads unset. -/
theorem pixel_outside {w h : Nat} {fb : Framebuffer} (hs : Sized w h fb) (x y : Nat) (ho : w ≤ x ∨ h ≤ y) :
    pixel fb x y = false := by
  unfold pixel
  by_cases hy : y < fb.length
  · have hw := hs.2 fb[y] (List.getElem_mem hy)
    have hx : fb[y].length ≤ x := by have := hs.1; omega
    simp [List.getElem?_eq_getElem hy, List.getElem?_eq_none hx]
  · simp [List.getElem?_eq_none (Nat.le_of_not_lt hy)]

theorem sized_toggle {w h : Nat} {fb : Framebuffer} (hs : Sized w h fb) (px py : Nat) : Sized w h (toggle fb px py) := by
  refine ⟨by simp [toggle, hs.1], fun row hr => ?_⟩
  obtain ⟨i, hi, rfl⟩ := List.mem_iff_getElem.mp hr
  rw [toggle, List.length_modify] at hi
  have := hs.2 fb[i] (List.getElem_mem hi)
  simp only [toggle, List.getElem_modify]
  split <;> simp [this]

/-- A toggle inside the grid inverts that pixel and no other (R262). -/
theorem pixel_toggle {w h : Nat} {fb : Framebuffer} (hs : Sized w h fb) (px py x y : Nat) (hx : px < w) (hy : py < h) :
    pixel (toggle fb px py) x y = if x = px ∧ y = py then !pixel fb x y else pixel fb x y := by
  unfold pixel toggle
  rw [List.getElem?_modify]
  by_cases hyy : y < fb.length
  · have hw := hs.2 fb[y] (List.getElem_mem hyy)
    by_cases e : py = y
    · subst e
      simp only [List.getElem?_eq_getElem hyy, Option.map_eq_map, Option.map_some, Option.getD_some, ↓reduceIte,
        List.getElem?_modify]
      by_cases ex : px = x
      · subst ex; simp [List.getElem?_eq_getElem (hw ▸ hx)]
      · simp [ex, Ne.symm ex]
    · simp [e, Ne.symm e]
  · have : py ≠ y := fun e => hyy (by rw [hs.1, ← e]; exact hy)
    simp [List.getElem?_eq_none (Nat.le_of_not_lt hyy), Ne.symm this]

/-- The draw loop keeps the size of the grid. -/
theorem sized_togglePixels {w h : Nat} (ps : List (Nat × Nat)) : ∀ (fb : Framebuffer) (c : Bool), Sized w h fb →
    Sized w h (togglePixels fb c ps).1 := by
  induction ps with
  | nil => intro fb c hs; exact hs
  | cons p ps ih => intro fb c hs; exact ih _ _ (sized_toggle hs _ _)

/-- The draw loop over distinct pixels inside the grid inverts exactly those (R262). -/
theorem pixel_togglePixels {w h : Nat} (ps : List (Nat × Nat)) : ∀ (fb : Framebuffer) (c : Bool), Sized w h fb →
    ps.Nodup → (∀ p ∈ ps, p.1 < w ∧ p.2 < h) → ∀ x y,
    pixel (togglePixels fb c ps).1 x y = if (x, y) ∈ ps then !pixel fb x y else pixel fb x y := by
  induction ps with
  | nil => intro fb c _ _ _ x y; simp [togglePixels]
  | cons p ps ih =>
    intro fb c hs hn hin x y
    obtain ⟨hnot, hn'⟩ := List.nodup_cons.mp hn
    have hp := hin p (by simp)
    rw [togglePixels, ih _ _ (sized_toggle hs _ _) hn' (fun q hq => hin q (by simp [hq])),
      pixel_toggle hs _ _ _ _ hp.1 hp.2]
    by_cases e : (x, y) = p
    · subst e; simp [hnot]
    · have e' : ¬ (x = p.1 ∧ y = p.2) := fun ⟨h1, h2⟩ => e (Prod.ext h1 h2)
      simp [e', e]

/-- The draw loop over distinct pixels reports whether one of them was set (R265). -/
theorem coll_togglePixels {w h : Nat} (ps : List (Nat × Nat)) : ∀ (fb : Framebuffer) (c : Bool), Sized w h fb →
    ps.Nodup → (∀ p ∈ ps, p.1 < w ∧ p.2 < h) →
    (togglePixels fb c ps).2 = (c || ps.any fun p => pixel fb p.1 p.2) := by
  induction ps with
  | nil => intro fb c _ _ _; simp [togglePixels]
  | cons p ps ih =>
    intro fb c hs hn hin
    obtain ⟨hnot, hn'⟩ := List.nodup_cons.mp hn
    have hp := hin p (by simp)
    rw [togglePixels, ih _ _ (sized_toggle hs _ _) hn' (fun q hq => hin q (by simp [hq]))]
    have : (ps.any fun q => pixel (toggle fb p.1 p.2) q.1 q.2) = ps.any fun q => pixel fb q.1 q.2 := by
      apply Bool.eq_iff_iff.mpr
      simp only [List.any_eq_true]
      refine exists_congr fun q => and_congr_right fun hq => ?_
      have e : ¬ (q.1 = p.1 ∧ q.2 = p.2) := fun ⟨h1, h2⟩ => hnot (Prod.ext h1 h2 ▸ hq)
      rw [pixel_toggle hs _ _ _ _ hp.1 hp.2, if_neg e]
    rw [this, List.any_cons, Bool.or_assoc]

/-- The effective grid lies in the backing grid (R261). -/
theorem effW_le_backW (c : Config) (m : Bool) : c.effW m ≤ c.backW := by
  cases h : c.profile <;> cases m <;> simp [Config.effW, Config.backW, h]

theorem effH_le_backH (c : Config) (m : Bool) : c.effH m ≤ c.backH := by
  cases h : c.profile <;> cases m <;> simp [Config.effH, Config.backH, h]

/-- A sprite is never wider or higher than the effective grid (R264). -/
theorem effW_ge (c : Config) (m : Bool) : 64 ≤ c.effW m := by
  cases h : c.profile <;> cases m <;> simp [Config.effW, h]

theorem effH_ge (c : Config) (m : Bool) : 32 ≤ c.effH m := by
  cases h : c.profile <;> cases m <;> simp [Config.effH, h]

/-- A sprite pixel's destination lies in the effective grid (R263, R264). -/
theorem spriteDest_inside (mode : SpriteMode) (w h px py : Nat) (hw : 0 < w) (hh : 0 < h) (p : Nat × Nat)
    (e : spriteDest mode w h px py = some p) : p.1 < w ∧ p.2 < h := by
  cases mode
  · simp only [spriteDest] at e
    split at e
    · cases e; assumption
    · cases e
  · cases e; exact ⟨Nat.mod_lt _ hw, Nat.mod_lt _ hh⟩

/-- Every destination of a sprite lies in the effective grid. -/
theorem spriteDests_inside (mode : SpriteMode) (w h x0 wbits : Nat) (hw : 0 < w) (hh : 0 < h) (rows : List Nat) :
    ∀ y0, ∀ p ∈ spriteDests mode w h x0 y0 wbits rows, p.1 < w ∧ p.2 < h := by
  induction rows with
  | nil => intro y0 p hp; simp [spriteDests] at hp
  | cons row rows ih =>
    intro y0 p hp
    rcases List.mem_append.mp hp with hp | hp
    · obtain ⟨c, -, hc⟩ := List.mem_filterMap.mp hp
      split at hc
      · exact spriteDest_inside mode w h _ _ hw hh p hc
      · cases hc
    · exact ih _ p hp

theorem sized_gpuDraw {w h : Nat} (mode : SpriteMode) (ew eh : Nat) (fb : Framebuffer) (hs : Sized w h fb) (x y : Nat)
    (rows : List Nat) (wbits : Nat) : Sized w h (gpuDraw mode ew eh fb x y rows wbits).1 :=
  sized_togglePixels _ _ _ hs

end Sys2Proof.Machine
end

