-- ==== Sys2Proof/Laws/Memory.lean ====
section
/-! SUPPORT. The laws of memory: read after write, the canonical form, and the range check. -/

namespace Sys2Proof.Machine

variable (init : Nat → Byte)

/-! ## Read after write -/

/-- An address below every listed one reads as the unlisted contents. -/
theorem Memory.read_of_lt (m : Memory) (a : Nat) (h : ∀ c ∈ m, a < c.1) : Memory.read init m a = init a := by
  induction m with
  | nil => rfl
  | cons c m ih =>
    have hc := h c (by simp)
    rw [Memory.read, if_neg (by omega)]
    exact ih fun d hd => h d (by simp [hd])

/-- Reading after a write of one byte, in a memory in rising order. -/
theorem Memory.read_write (m : Memory) (hm : m.Pairwise (fun c d => c.1 < d.1)) (a : Nat) (b : Byte) (x : Nat) :
    Memory.read init (Memory.write init m a b) x = if x = a then b else Memory.read init m x := by
  induction m with
  | nil => by_cases hx : x = a <;> by_cases hb : b = init a <;> simp [Memory.write, Memory.read, hx, hb]
  | cons c m ih =>
    obtain ⟨a', b'⟩ := c
    obtain ⟨hlt, hm'⟩ := List.pairwise_cons.mp hm
    rw [Memory.write]
    split
    · rename_i h
      have hlow : Memory.read init ((a', b') :: m) a = init a :=
        Memory.read_of_lt init _ a fun d hd => by
          rcases List.mem_cons.mp hd with rfl | hd
          · exact h
          · exact Nat.lt_trans h (hlt d hd)
      by_cases hx : x = a
      · subst hx
        by_cases hb : b = init x <;> simp [hb, Memory.read, hlow]
      · by_cases hb : b = init a <;> simp [hb, Memory.read, hx]
    · split
      · rename_i h
        subst h
        have hlow : Memory.read init m a = init a := Memory.read_of_lt init _ a fun d hd => hlt d hd
        by_cases hx : x = a
        · subst hx; by_cases hb : b = init x <;> simp [hb, Memory.read, hlow]
        · by_cases hb : b = init a <;> simp [hb, Memory.read, hx]
      · rename_i h1 h2
        by_cases hx : x = a'
        · subst hx; simp [Memory.read]; intro e; exact absurd e.symm h2
        · simp [Memory.read, hx, ih hm']

/-! ## The canonical form -/

/-- Every cell of a written memory is the new one or an old one. -/
theorem Memory.mem_write (m : Memory) (a : Nat) (b : Byte) (c : Host.Cell) (h : c ∈ Memory.write init m a b) :
    (c = (a, b) ∧ b ≠ init a) ∨ c ∈ m := by
  induction m with
  | nil =>
    by_cases hb : b = init a <;> simp [Memory.write, hb] at h
    exact .inl ⟨h, hb⟩
  | cons d m ih =>
    obtain ⟨a', b'⟩ := d
    rw [Memory.write] at h
    split at h
    · by_cases hb : b = init a
      · rw [if_pos hb] at h; exact .inr h
      · rw [if_neg hb] at h
        rcases List.mem_cons.mp h with h | h
        · exact .inl ⟨h, hb⟩
        · exact .inr h
    · split at h
      · by_cases hb : b = init a
        · rw [if_pos hb] at h; exact .inr (List.mem_cons_of_mem _ h)
        · rw [if_neg hb] at h
          rcases List.mem_cons.mp h with h | h
          · exact .inl ⟨h, hb⟩
          · exact .inr (List.mem_cons_of_mem _ h)
      · rcases List.mem_cons.mp h with h | h
        · exact .inr (by simp [h])
        · exact (ih h).imp id (List.mem_cons_of_mem _)

/-- A write keeps the rising order. -/
theorem Memory.sorted_write (m : Memory) (hm : m.Pairwise (fun c d => c.1 < d.1)) (a : Nat) (b : Byte) :
    (Memory.write init m a b).Pairwise (fun c d => c.1 < d.1) := by
  induction m with
  | nil => by_cases hb : b = init a <;> simp [Memory.write, hb]
  | cons c m ih =>
    obtain ⟨a', b'⟩ := c
    obtain ⟨hlt, hm'⟩ := List.pairwise_cons.mp hm
    rw [Memory.write]
    split
    · rename_i h
      by_cases hb : b = init a
      · rw [if_pos hb]; exact hm
      · rw [if_neg hb]
        refine List.pairwise_cons.mpr ⟨fun d hd => ?_, hm⟩
        rcases List.mem_cons.mp hd with rfl | hd
        · exact h
        · exact Nat.lt_trans h (hlt d hd)
    · split
      · rename_i h
        subst h
        by_cases hb : b = init a
        · rw [if_pos hb]; exact hm'
        · rw [if_neg hb]; exact List.pairwise_cons.mpr ⟨fun d hd => hlt d hd, hm'⟩
      · rename_i h1 h2
        refine List.pairwise_cons.mpr ⟨fun d hd => ?_, ih hm'⟩
        rcases Memory.mem_write init m a b d hd with ⟨rfl, -⟩ | hd
        · exact Nat.lt_of_le_of_ne (Nat.le_of_not_lt h1) (Ne.symm h2)
        · exact hlt d hd

/-- A write below the memory size keeps the canonical form. -/
theorem Memory.wf_write (size : Nat) (m : Memory) (hm : Memory.wf size init m) (a : Nat) (b : Byte) (ha : a < size) :
    Memory.wf size init (Memory.write init m a b) :=
  ⟨Memory.sorted_write init m hm.1 a b, fun c hc => by
    rcases Memory.mem_write init m a b c hc with ⟨rfl, hb⟩ | hc
    · exact ⟨ha, hb⟩
    · exact hm.2 c hc⟩

/-- Writing bytes below the memory size keeps the canonical form. -/
theorem Memory.wf_writeBytes (size : Nat) (bs : List Byte) : ∀ (m : Memory) (a : Nat), Memory.wf size init m →
    a + bs.length ≤ size → Memory.wf size init (Memory.writeBytes init m a bs) := by
  induction bs with
  | nil => intro m a hm _; exact hm
  | cons b bs ih =>
    intro m a hm h
    rw [List.length_cons] at h
    exact ih _ _ (Memory.wf_write init size m hm a b (by omega)) (by omega)

/-- Reading after bytes were written, in a memory in rising order. -/
theorem Memory.read_writeBytes (bs : List Byte) : ∀ (m : Memory) (a x : Nat), m.Pairwise (fun c d => c.1 < d.1) →
    Memory.read init (Memory.writeBytes init m a bs) x =
      if a ≤ x ∧ x < a + bs.length then bs.getD (x - a) 0#8 else Memory.read init m x := by
  induction bs with
  | nil => intro m a x _; simp [Memory.writeBytes]
  | cons b bs ih =>
    intro m a x hm
    rw [Memory.writeBytes, ih _ _ _ (Memory.sorted_write init m hm a b), Memory.read_write init m hm]
    rcases Nat.lt_trichotomy x a with h | h | h
    · rw [if_neg (by omega), if_neg (by omega), if_neg (by omega)]
    · subst h; simp
    · have e : x - a = (x - (a + 1)) + 1 := by omega
      by_cases hl : x < a + 1 + bs.length
      · rw [if_pos ⟨by omega, hl⟩, if_pos ⟨by omega, by simp; omega⟩, e, List.getD_cons_succ]
      · rw [if_neg (by omega), if_neg (by omega), if_neg (by simp; omega)]

/-- Empty memory is canonical. -/
theorem Memory.wf_nil (size : Nat) : Memory.wf size init [] := ⟨List.Pairwise.nil, by simp⟩

/-- Two canonical memories with the same bytes are the same list. -/
theorem Memory.eq_of_read_eq (size : Nat) (m : Memory) : ∀ m' : Memory, Memory.wf size init m → Memory.wf size init m' →
    (∀ x, Memory.read init m x = Memory.read init m' x) → m = m' := by
  induction m with
  | nil =>
    rintro (_ | ⟨d, m'⟩) _ h' hr
    · rfl
    · have := hr d.1
      simp only [Memory.read, ↓reduceIte] at this
      exact absurd this.symm (h'.2 d (by simp)).2
  | cons c m ih =>
    rintro (_ | ⟨d, m'⟩) h h' hr
    · have := hr c.1
      simp only [Memory.read, ↓reduceIte] at this
      exact absurd this (h.2 c (by simp)).2
    · obtain ⟨hc, hm⟩ := List.pairwise_cons.mp h.1
      obtain ⟨hd, hm'⟩ := List.pairwise_cons.mp h'.1
      have low : ∀ (e : Host.Cell) (k : Memory) (a : Nat), a < e.1 → (∀ f ∈ k, e.1 < f.1) →
          Memory.read init (e :: k) a = init a := fun e k a ha hk =>
        Memory.read_of_lt init _ a fun f hf => by
          rcases List.mem_cons.mp hf with rfl | hf
          · exact ha
          · exact Nat.lt_trans ha (hk f hf)
      have heq : c.1 = d.1 := by
        rcases Nat.lt_trichotomy c.1 d.1 with hl | he | hl
        · have := hr c.1
          rw [low d m' _ hl hd] at this
          simp only [Memory.read, ↓reduceIte] at this
          exact absurd this (h.2 c (by simp)).2
        · exact he
        · have := hr d.1
          rw [low c m _ hl hc] at this
          simp only [Memory.read, ↓reduceIte] at this
          exact absurd this.symm (h'.2 d (by simp)).2
      have hb : c.2 = d.2 := by
        have := hr c.1
        simpa [Memory.read, heq] using this
      have htail : m = m' := ih m' ⟨hm, fun e he => h.2 e (by simp [he])⟩ ⟨hm', fun e he => h'.2 e (by simp [he])⟩
        fun x => by
          by_cases hx : x = c.1
          · rw [Memory.read_of_lt init m x fun e he => hx ▸ hc e he,
              Memory.read_of_lt init m' x fun e he => (hx.trans heq) ▸ hd e he]
          · have := hr x
            simpa [Memory.read, hx, heq ▸ hx] using this
      rw [Prod.ext heq hb, htail]

/-! ## The state's memory -/

/-- A byte after a store (R77). -/
theorem byte_storeBytes (s : State) (hm : s.mem.Pairwise (fun c d => c.1 < d.1)) (a : Nat) (bs : List Byte) (x : Nat) :
    (s.storeBytes a bs).byte x = if a ≤ x ∧ x < a + bs.length then bs.getD (x - a) 0#8 else s.byte x := by
  simp only [State.byte, State.storeBytes]
  exact Memory.read_writeBytes _ _ _ _ _ hm

/-- The byte read depends on the memory and the configuration alone. -/
theorem byte_congr (s t : State) (hm : t.mem = s.mem) (hc : t.cfg = s.cfg) (x : Nat) : t.byte x = s.byte x := by
  simp [State.byte, hm, hc]

@[simp] theorem length_bytes (s : State) (n : Nat) : ∀ a, (s.bytes a n).length = n := by
  induction n with
  | zero => intro a; rfl
  | succ n ih => intro a; simp [State.bytes, ih]

/-- Byte `k` of the bytes read from `a` (R76). -/
theorem getD_bytes (s : State) (n : Nat) : ∀ (a k : Nat), k < n → (s.bytes a n).getD k 0#8 = s.byte (a + k) := by
  induction n with
  | zero => intro a k h; omega
  | succ n ih =>
    intro a k h
    cases k with
    | zero => simp [State.bytes]
    | succ k =>
      rw [State.bytes, List.getD_cons_succ, ih _ _ (by omega)]
      congr 1; omega

@[simp] theorem length_decimalDigits (u n : Nat) : (decimalDigits u n).length = n := by
  induction n with
  | zero => rfl
  | succ n ih => simp [decimalDigits, ih]

@[simp] theorem length_regsUpTo (s : State) (x : Reg) : (s.regsUpTo x).length = x.toNat + 1 := by
  have := x.isLt
  simp [State.regsUpTo]; omega

@[simp] theorem length_asciiGlyph (p : C8E) (c : Byte) : (asciiGlyph p c).length = p.asciiRows := by
  simp [asciiGlyph]

/-! ## The range check -/

/-- The range check passes exactly when every byte lies in the region (R76, R77). -/
theorem firstOutside_eq_none (lo hi : Nat) (n : Nat) : ∀ a,
    firstOutside lo hi a n = none ↔ n = 0 ∨ (lo ≤ a ∧ a + n ≤ hi) := by
  induction n with
  | zero => intro a; simp [firstOutside]
  | succ n ih =>
    intro a
    rw [firstOutside]
    split
    · rw [ih]; omega
    · simp; omega

/-- The address it reports is in the access, outside the region, and the lowest such address (R78). -/
theorem firstOutside_eq_some (lo hi : Nat) (n : Nat) : ∀ a bad, firstOutside lo hi a n = some bad ↔
    a ≤ bad ∧ bad < a + n ∧ ¬ (lo ≤ bad ∧ bad < hi) ∧ ∀ x, a ≤ x → x < bad → lo ≤ x ∧ x < hi := by
  induction n with
  | zero => intro a bad; simp [firstOutside]; omega
  | succ n ih =>
    intro a bad
    rw [firstOutside]
    split
    · rename_i h
      rw [ih]
      constructor
      · rintro ⟨h1, h2, h3, h4⟩
        refine ⟨by omega, by omega, h3, fun x hx hb => ?_⟩
        rcases Nat.eq_or_lt_of_le hx with rfl | hx
        · exact h
        · exact h4 x (by omega) hb
      · rintro ⟨h1, h2, h3, h4⟩
        have : a ≠ bad := fun e => h3 (e ▸ h)
        exact ⟨by omega, by omega, h3, fun x hx hb => h4 x (by omega) hb⟩
    · rename_i h
      constructor
      · intro e
        cases e
        exact ⟨Nat.le_refl _, by omega, h, fun x h1 h2 => by omega⟩
      · rintro ⟨h1, h2, h3, h4⟩
        rcases Nat.eq_or_lt_of_le h1 with e | hlt
        · rw [e]
        · exact absurd (h4 a (Nat.le_refl _) hlt) h

/-- A checked access goes on, or faults MEM_RANGE with an address outside its region. -/
theorem checked_cases (r : Region) (a n : Nat) (s : State) (k : Result) :
    (checked r a n s k = k ∧ (n = 0 ∨ (r.lo ≤ a ∧ a + n ≤ s.cfg.memSize))) ∨
    ∃ bad, checked r a n s k = raise .memRange (some bad) s ∧ firstOutside r.lo s.cfg.memSize a n = some bad := by
  unfold checked
  cases h : firstOutside r.lo s.cfg.memSize a n with
  | none => exact .inl ⟨rfl, (firstOutside_eq_none _ _ _ _).mp h⟩
  | some bad => exact .inr ⟨bad, rfl, rfl⟩

/-- A checked access whose bytes all lie in the region goes on. -/
theorem checked_of_inside (r : Region) (a n : Nat) (s : State) (k : Result) (hlo : r.lo ≤ a)
    (hhi : a + n ≤ s.cfg.memSize) : checked r a n s k = k := by
  unfold checked
  rw [(firstOutside_eq_none _ _ _ _).mpr (.inr ⟨hlo, hhi⟩)]

/-- The operand check goes on, or faults OPERAND. -/
theorem operandCheck_cases (ok : Bool) (s : State) (k : Result) :
    (ok = true ∧ operandCheck ok s k = k) ∨ (ok = false ∧ operandCheck ok s k = raise .operand none s) := by
  cases ok <;> simp [operandCheck]

end Sys2Proof.Machine
end

