-- ==== Sys2Proof/Laws/Exec.lean ====
section
/-! SUPPORT. One lemma for each operation that meanings share: everything it can do. -/

namespace Sys2Proof.Machine

/-! ## Faults -/

/-- An instruction's fault is a next state whose only difference is the record (R402, R403). -/
theorem raise_eq (code : FaultCode) (addr : Option Nat) (s : State) : raise code addr s =
    .next { s with fault := some { code := code, fetchAddr := s.pc, word := some (s.wordAt s.pc.toNat), addr := addr } } :=
  rfl

theorem raise_eq_takeFault (code : FaultCode) (addr : Option Nat) (s : State) :
    raise code addr s = .next (s.takeFault code (some (s.wordAt s.pc.toNat)) addr) := rfl

/-- The operand check of a register that must hold a value up to `m`. -/
theorem operandCheck_of_le (a m : Nat) (s : State) (k : Result) (h : a ≤ m) :
    operandCheck (decide (a ≤ m)) s k = k := by simp [operandCheck, h]

theorem operandCheck_of_gt (a m : Nat) (s : State) (k : Result) (h : m < a) :
    operandCheck (decide (a ≤ m)) s k = raise .operand none s := by simp [operandCheck, Nat.not_le.mpr h]

/-- A CHIP-8E operation on a machine with the family, and without it (R330). -/
theorem withC8E_cases (s : State) (k : C8E → Result) :
    (∃ p, s.cfg.c8e = some p ∧ withC8E s k = k p) ∨
    (s.cfg.c8e = none ∧ withC8E s k = raise .decode none s) := by
  cases h : s.cfg.c8e <;> simp [withC8E, h]

/-! ## Timers -/

theorem timerGet_idle (t now : Nat) : timerGet t .idle now = (.idle, 0#8) := rfl

/-- The value read is the start value less the elapsed ticks, not below 0 (R421). -/
theorem timerGet_value (t : Nat) (v : Byte) (t0 now : Nat) :
    (timerGet t (.running v t0) now).2.toNat = v.toNat - elapsedTicks t t0 now := by
  have := v.isLt
  unfold timerGet
  by_cases h : v.toNat ≤ elapsedTicks t t0 now
  · simp [h]
  · simp [h]; omega

/-- A read leaves the capture, or makes it idle where it reads 0 (R421, R422). -/
theorem timerGet_capture (t : Nat) (c : TimerCapture) (now : Nat) :
    (timerGet t c now).1 = c ∨ ((timerGet t c now).1 = .idle ∧ (timerGet t c now).2 = 0#8) := by
  cases c with
  | idle => exact .inl rfl
  | running v t0 => unfold timerGet; dsimp only; split <;> simp

theorem timerSet_positive (v : Byte) (now : Nat) : (timerSet v now).Positive := by
  unfold timerSet
  split
  · trivial
  · assumption

theorem timerGet_positive (t : Nat) (c : TimerCapture) (now : Nat) (h : c.Positive) : (timerGet t c now).1.Positive := by
  rcases timerGet_capture t c now with e | ⟨e, -⟩ <;> rw [e]
  · exact h
  · trivial

/-! ## Keys -/

@[simp] theorem has_insert (ks : KeySet) (k j : Nibble) : (ks.insert k).has j = (decide (j = k) || ks.has j) := by
  by_cases h : j = k
  · subst h; simp [KeySet.has, KeySet.insert]
  · have hn : k.toNat ≠ j.toNat := fun e => h (BitVec.eq_of_toNat_eq e.symm)
    simp [KeySet.has, KeySet.insert, h, Vector.getElem_set_ne _ _ hn]

@[simp] theorem has_empty (k : Nibble) : KeySet.empty.has k = false := by simp [KeySet.has, KeySet.empty]

/-- Every key code is listed. -/
theorem mem_allKeys (k : Nibble) : k ∈ allKeys := by
  simp only [allKeys, List.mem_map, List.mem_range]
  exact ⟨k.toNat, k.isLt, by simp⟩

/-- The list of a set's keys holds exactly its keys. -/
theorem mem_keys (ks : KeySet) (k : Nibble) : k ∈ ks.keys ↔ ks.has k = true := by
  simp [KeySet.keys, mem_allKeys]

theorem nodup_keys (ks : KeySet) : ks.keys.Nodup := by
  have : allKeys.Nodup := by decide
  exact this.filter _

/-- The detector with no key down (R432). -/
theorem keypadQuery_none (down : KeySet) (armed : Bool) (h : ∀ k, down.has k = false) :
    keypadQuery down armed = (true, none) := by
  have : down.keys = [] := by
    apply List.eq_nil_iff_forall_not_mem.mpr
    intro k hk; rw [mem_keys, h k] at hk; cases hk
  simp [keypadQuery, this]

/-- The detector with exactly one key down (R432). -/
theorem keypadQuery_one (down : KeySet) (armed : Bool) (k : Nibble) (h : ∀ j, down.has j = true ↔ j = k) :
    keypadQuery down armed = if armed then (false, some k) else (armed, none) := by
  have : down.keys = [k] := by
    have hk : k ∈ down.keys := (mem_keys _ _).mpr ((h k).mpr rfl)
    have hall : ∀ j ∈ down.keys, j = k := fun j hj => (h j).mp ((mem_keys _ _).mp hj)
    have hn := nodup_keys down
    cases hl : down.keys with
    | nil => rw [hl] at hk; cases hk
    | cons a l =>
      rw [hl] at hall hn
      have ha := hall a (by simp)
      cases l with
      | nil => rw [ha]
      | cons b l =>
        have hb := hall b (by simp)
        simp [ha, hb] at hn
  simp [keypadQuery, this]

/-- The detector with two keys down reports none and keeps `armed` (R432, R434). -/
theorem keypadQuery_many (down : KeySet) (armed : Bool) (j k : Nibble) (hj : down.has j = true) (hk : down.has k = true)
    (hne : j ≠ k) : keypadQuery down armed = (armed, none) := by
  have hj' := (mem_keys _ _).mpr hj
  have hk' := (mem_keys _ _).mpr hk
  cases hl : down.keys with
  | nil => rw [hl] at hj'; cases hj'
  | cons a l =>
    cases l with
    | nil =>
      rw [hl, List.mem_singleton] at hj' hk'
      exact absurd (hj'.trans hk'.symm) hne
    | cons b l => simp [keypadQuery, hl]

/-! ## Drawing -/

/-- Drawing rows writes the framebuffer and VF, and nothing else (R281, R282). -/
theorem drawRows_eq (x y : Reg) (rows : List Nat) (n : Nat) (s : State) : drawRows x y rows n s =
    .next (((s.draw (s.reg x) (s.reg y) rows n).1).setReg VF (collisionFlag (s.draw (s.reg x) (s.reg y) rows n).2)) :=
  rfl

end Sys2Proof.Machine
end

