-- ==== Sys2Proof/Laws/PerInstr.lean ====
section
/-! SUPPORT. The statements made per instruction. FieldsInWord: the operands of an instruction stand in its encoded word at the
field positions of 30_encoding.md R101, beside the fixed bits of its row of spec/opcode_table.json. -/

namespace Sys2Proof.Laws

/-- The field `op` (R101). -/
def fieldOp (w : Word) : BitVec 4 := w.extractLsb' 12 4
/-- The field `x` (R101). -/
def fieldX (w : Word) : Reg := w.extractLsb' 8 4
/-- The field `y` (R101). -/
def fieldY (w : Word) : Reg := w.extractLsb' 4 4
/-- The field `n` (R101). -/
def fieldN (w : Word) : Nibble := w.extractLsb' 0 4
/-- The field `nn` (R101). -/
def fieldNN (w : Word) : Byte := w.extractLsb' 0 8
/-- The field `nnn` (R101). -/
def fieldNNN (w : Word) : Addr := w.extractLsb' 0 12

/-- The fixed bits and the operands of an instruction, read off a word by the formats of R102. -/
def FieldsInWord.fields (w : Word) : Instr → Prop
  | .sys nnn => fieldOp w = 0x0#4 ∧ fieldNNN w = nnn
  | .cls => w = 0x00E0#16
  | .ret => w = 0x00EE#16
  | .jp nnn => fieldOp w = 0x1#4 ∧ fieldNNN w = nnn
  | .call nnn => fieldOp w = 0x2#4 ∧ fieldNNN w = nnn
  | .seVxNn x nn => fieldOp w = 0x3#4 ∧ fieldX w = x ∧ fieldNN w = nn
  | .sneVxNn x nn => fieldOp w = 0x4#4 ∧ fieldX w = x ∧ fieldNN w = nn
  | .seVxVy x y => fieldOp w = 0x5#4 ∧ fieldX w = x ∧ fieldY w = y ∧ fieldN w = 0x0#4
  | .ldVxNn x nn => fieldOp w = 0x6#4 ∧ fieldX w = x ∧ fieldNN w = nn
  | .addVxNn x nn => fieldOp w = 0x7#4 ∧ fieldX w = x ∧ fieldNN w = nn
  | .ldVxVy x y => fieldOp w = 0x8#4 ∧ fieldX w = x ∧ fieldY w = y ∧ fieldN w = 0x0#4
  | .or x y => fieldOp w = 0x8#4 ∧ fieldX w = x ∧ fieldY w = y ∧ fieldN w = 0x1#4
  | .and x y => fieldOp w = 0x8#4 ∧ fieldX w = x ∧ fieldY w = y ∧ fieldN w = 0x2#4
  | .xor x y => fieldOp w = 0x8#4 ∧ fieldX w = x ∧ fieldY w = y ∧ fieldN w = 0x3#4
  | .addVxVy x y => fieldOp w = 0x8#4 ∧ fieldX w = x ∧ fieldY w = y ∧ fieldN w = 0x4#4
  | .sub x y => fieldOp w = 0x8#4 ∧ fieldX w = x ∧ fieldY w = y ∧ fieldN w = 0x5#4
  | .shr x y => fieldOp w = 0x8#4 ∧ fieldX w = x ∧ fieldY w = y ∧ fieldN w = 0x6#4
  | .subn x y => fieldOp w = 0x8#4 ∧ fieldX w = x ∧ fieldY w = y ∧ fieldN w = 0x7#4
  | .shl x y => fieldOp w = 0x8#4 ∧ fieldX w = x ∧ fieldY w = y ∧ fieldN w = 0xE#4
  | .sneVxVy x y => fieldOp w = 0x9#4 ∧ fieldX w = x ∧ fieldY w = y ∧ fieldN w = 0x0#4
  | .ldI nnn => fieldOp w = 0xA#4 ∧ fieldNNN w = nnn
  | .jpV0 nnn => fieldOp w = 0xB#4 ∧ fieldNNN w = nnn
  | .rnd x nn => fieldOp w = 0xC#4 ∧ fieldX w = x ∧ fieldNN w = nn
  | .drw x y n => fieldOp w = 0xD#4 ∧ fieldX w = x ∧ fieldY w = y ∧ fieldN w = n
  | .drw16 x y => fieldOp w = 0xD#4 ∧ fieldX w = x ∧ fieldY w = y ∧ fieldN w = 0x0#4
  | .skp x => fieldOp w = 0xE#4 ∧ fieldX w = x ∧ fieldNN w = 0x9E#8
  | .sknp x => fieldOp w = 0xE#4 ∧ fieldX w = x ∧ fieldNN w = 0xA1#8
  | .ldVxDt x => fieldOp w = 0xF#4 ∧ fieldX w = x ∧ fieldNN w = 0x07#8
  | .ldVxK x => fieldOp w = 0xF#4 ∧ fieldX w = x ∧ fieldNN w = 0x0A#8
  | .ldDtVx x => fieldOp w = 0xF#4 ∧ fieldX w = x ∧ fieldNN w = 0x15#8
  | .ldStVx x => fieldOp w = 0xF#4 ∧ fieldX w = x ∧ fieldNN w = 0x18#8
  | .addIVx x => fieldOp w = 0xF#4 ∧ fieldX w = x ∧ fieldNN w = 0x1E#8
  | .ldF x => fieldOp w = 0xF#4 ∧ fieldX w = x ∧ fieldNN w = 0x29#8
  | .ldB x => fieldOp w = 0xF#4 ∧ fieldX w = x ∧ fieldNN w = 0x33#8
  | .ldMiVx x => fieldOp w = 0xF#4 ∧ fieldX w = x ∧ fieldNN w = 0x55#8
  | .ldVxMi x => fieldOp w = 0xF#4 ∧ fieldX w = x ∧ fieldNN w = 0x65#8
  | .scd n => w.extractLsb' 4 12 = 0x00C#12 ∧ fieldN w = n
  | .scr => w = 0x00FB#16
  | .scl => w = 0x00FC#16
  | .exit => w = 0x00FD#16
  | .low => w = 0x00FE#16
  | .high => w = 0x00FF#16
  | .ldHf x => fieldOp w = 0xF#4 ∧ fieldX w = x ∧ fieldNN w = 0x30#8
  | .ldRVx x => fieldOp w = 0xF#4 ∧ fieldX w = x ∧ fieldNN w = 0x75#8
  | .ldVxR x => fieldOp w = 0xF#4 ∧ fieldX w = x ∧ fieldNN w = 0x85#8
  | .c8eSks x y => fieldX w = x ∧ fieldY w = y
  | .c8eMul x y => fieldX w = x ∧ fieldY w = y
  | .c8eDiv x y => fieldX w = x ∧ fieldY w = y
  | .c8eBcd16 x y => fieldX w = x ∧ fieldY w = y
  | .c8eAscii x y => fieldX w = x ∧ fieldY w = y
  | .c8eOp6 x y => fieldX w = x ∧ fieldY w = y

/-- The word of an instruction holds its fixed bits and its operands. -/
def FieldsInWord.Statement (i : Instr) : Prop :=
  ∀ (cfg : Config) (w : Word), encode cfg i = some w → FieldsInWord.fields w i

end Sys2Proof.Laws

section
open Sys2Proof Sys2Proof.Laws Sys2Proof.Laws.FieldsInWord

theorem Sys2Proof.Laws.FieldsInWord.sys (nnn : Addr) : Statement (.sys nnn) := by
  intro cfg w h
  cases h
  exact ⟨op_a12 _ _, nnn_a12 _ _⟩

theorem Sys2Proof.Laws.FieldsInWord.cls : Statement (.cls) := by
  intro cfg w h
  exact (Option.some.inj h).symm

theorem Sys2Proof.Laws.FieldsInWord.ret : Statement (.ret) := by
  intro cfg w h
  exact (Option.some.inj h).symm

theorem Sys2Proof.Laws.FieldsInWord.jp (nnn : Addr) : Statement (.jp nnn) := by
  intro cfg w h
  cases h
  exact ⟨op_a12 _ _, nnn_a12 _ _⟩

theorem Sys2Proof.Laws.FieldsInWord.call (nnn : Addr) : Statement (.call nnn) := by
  intro cfg w h
  cases h
  exact ⟨op_a12 _ _, nnn_a12 _ _⟩

theorem Sys2Proof.Laws.FieldsInWord.seVxNn (x : Reg) (nn : Byte) : Statement (.seVxNn x nn) := by
  intro cfg w h
  cases h
  exact ⟨op_xnn _ _ _, x_xnn _ _ _, nn_xnn _ _ _⟩

theorem Sys2Proof.Laws.FieldsInWord.sneVxNn (x : Reg) (nn : Byte) : Statement (.sneVxNn x nn) := by
  intro cfg w h
  cases h
  exact ⟨op_xnn _ _ _, x_xnn _ _ _, nn_xnn _ _ _⟩

theorem Sys2Proof.Laws.FieldsInWord.seVxVy (x y : Reg) : Statement (.seVxVy x y) := by
  intro cfg w h
  cases h
  exact ⟨op_xyn _ _ _ _, x_xyn _ _ _ _, y_xyn _ _ _ _, n_xyn _ _ _ _⟩

theorem Sys2Proof.Laws.FieldsInWord.ldVxNn (x : Reg) (nn : Byte) : Statement (.ldVxNn x nn) := by
  intro cfg w h
  cases h
  exact ⟨op_xnn _ _ _, x_xnn _ _ _, nn_xnn _ _ _⟩

theorem Sys2Proof.Laws.FieldsInWord.addVxNn (x : Reg) (nn : Byte) : Statement (.addVxNn x nn) := by
  intro cfg w h
  cases h
  exact ⟨op_xnn _ _ _, x_xnn _ _ _, nn_xnn _ _ _⟩

theorem Sys2Proof.Laws.FieldsInWord.ldVxVy (x y : Reg) : Statement (.ldVxVy x y) := by
  intro cfg w h
  cases h
  exact ⟨op_xyn _ _ _ _, x_xyn _ _ _ _, y_xyn _ _ _ _, n_xyn _ _ _ _⟩

theorem Sys2Proof.Laws.FieldsInWord.or (x y : Reg) : Statement (.or x y) := by
  intro cfg w h
  cases h
  exact ⟨op_xyn _ _ _ _, x_xyn _ _ _ _, y_xyn _ _ _ _, n_xyn _ _ _ _⟩

theorem Sys2Proof.Laws.FieldsInWord.and (x y : Reg) : Statement (.and x y) := by
  intro cfg w h
  cases h
  exact ⟨op_xyn _ _ _ _, x_xyn _ _ _ _, y_xyn _ _ _ _, n_xyn _ _ _ _⟩

theorem Sys2Proof.Laws.FieldsInWord.xor (x y : Reg) : Statement (.xor x y) := by
  intro cfg w h
  cases h
  exact ⟨op_xyn _ _ _ _, x_xyn _ _ _ _, y_xyn _ _ _ _, n_xyn _ _ _ _⟩

theorem Sys2Proof.Laws.FieldsInWord.addVxVy (x y : Reg) : Statement (.addVxVy x y) := by
  intro cfg w h
  cases h
  exact ⟨op_xyn _ _ _ _, x_xyn _ _ _ _, y_xyn _ _ _ _, n_xyn _ _ _ _⟩

theorem Sys2Proof.Laws.FieldsInWord.sub (x y : Reg) : Statement (.sub x y) := by
  intro cfg w h
  cases h
  exact ⟨op_xyn _ _ _ _, x_xyn _ _ _ _, y_xyn _ _ _ _, n_xyn _ _ _ _⟩

theorem Sys2Proof.Laws.FieldsInWord.shr (x y : Reg) : Statement (.shr x y) := by
  intro cfg w h
  cases h
  exact ⟨op_xyn _ _ _ _, x_xyn _ _ _ _, y_xyn _ _ _ _, n_xyn _ _ _ _⟩

theorem Sys2Proof.Laws.FieldsInWord.subn (x y : Reg) : Statement (.subn x y) := by
  intro cfg w h
  cases h
  exact ⟨op_xyn _ _ _ _, x_xyn _ _ _ _, y_xyn _ _ _ _, n_xyn _ _ _ _⟩

theorem Sys2Proof.Laws.FieldsInWord.shl (x y : Reg) : Statement (.shl x y) := by
  intro cfg w h
  cases h
  exact ⟨op_xyn _ _ _ _, x_xyn _ _ _ _, y_xyn _ _ _ _, n_xyn _ _ _ _⟩

theorem Sys2Proof.Laws.FieldsInWord.sneVxVy (x y : Reg) : Statement (.sneVxVy x y) := by
  intro cfg w h
  cases h
  exact ⟨op_xyn _ _ _ _, x_xyn _ _ _ _, y_xyn _ _ _ _, n_xyn _ _ _ _⟩

theorem Sys2Proof.Laws.FieldsInWord.ldI (nnn : Addr) : Statement (.ldI nnn) := by
  intro cfg w h
  cases h
  exact ⟨op_a12 _ _, nnn_a12 _ _⟩

theorem Sys2Proof.Laws.FieldsInWord.jpV0 (nnn : Addr) : Statement (.jpV0 nnn) := by
  intro cfg w h
  cases h
  exact ⟨op_a12 _ _, nnn_a12 _ _⟩

theorem Sys2Proof.Laws.FieldsInWord.rnd (x : Reg) (nn : Byte) : Statement (.rnd x nn) := by
  intro cfg w h
  cases h
  exact ⟨op_xnn _ _ _, x_xnn _ _ _, nn_xnn _ _ _⟩

theorem Sys2Proof.Laws.FieldsInWord.drw (x y : Reg) (n : Nibble) : Statement (.drw x y n) := by
  intro cfg w h
  cases h
  exact ⟨op_xyn _ _ _ _, x_xyn _ _ _ _, y_xyn _ _ _ _, n_xyn _ _ _ _⟩

theorem Sys2Proof.Laws.FieldsInWord.drw16 (x y : Reg) : Statement (.drw16 x y) := by
  intro cfg w h
  cases h
  exact ⟨op_xyn _ _ _ _, x_xyn _ _ _ _, y_xyn _ _ _ _, n_xyn _ _ _ _⟩

theorem Sys2Proof.Laws.FieldsInWord.skp (x : Reg) : Statement (.skp x) := by
  intro cfg w h
  cases h
  exact ⟨op_xnn _ _ _, x_xnn _ _ _, nn_xnn _ _ _⟩

theorem Sys2Proof.Laws.FieldsInWord.sknp (x : Reg) : Statement (.sknp x) := by
  intro cfg w h
  cases h
  exact ⟨op_xnn _ _ _, x_xnn _ _ _, nn_xnn _ _ _⟩

theorem Sys2Proof.Laws.FieldsInWord.ldVxDt (x : Reg) : Statement (.ldVxDt x) := by
  intro cfg w h
  cases h
  exact ⟨op_xnn _ _ _, x_xnn _ _ _, nn_xnn _ _ _⟩

theorem Sys2Proof.Laws.FieldsInWord.ldVxK (x : Reg) : Statement (.ldVxK x) := by
  intro cfg w h
  cases h
  exact ⟨op_xnn _ _ _, x_xnn _ _ _, nn_xnn _ _ _⟩

theorem Sys2Proof.Laws.FieldsInWord.ldDtVx (x : Reg) : Statement (.ldDtVx x) := by
  intro cfg w h
  cases h
  exact ⟨op_xnn _ _ _, x_xnn _ _ _, nn_xnn _ _ _⟩

theorem Sys2Proof.Laws.FieldsInWord.ldStVx (x : Reg) : Statement (.ldStVx x) := by
  intro cfg w h
  cases h
  exact ⟨op_xnn _ _ _, x_xnn _ _ _, nn_xnn _ _ _⟩

theorem Sys2Proof.Laws.FieldsInWord.addIVx (x : Reg) : Statement (.addIVx x) := by
  intro cfg w h
  cases h
  exact ⟨op_xnn _ _ _, x_xnn _ _ _, nn_xnn _ _ _⟩

theorem Sys2Proof.Laws.FieldsInWord.ldF (x : Reg) : Statement (.ldF x) := by
  intro cfg w h
  cases h
  exact ⟨op_xnn _ _ _, x_xnn _ _ _, nn_xnn _ _ _⟩

theorem Sys2Proof.Laws.FieldsInWord.ldB (x : Reg) : Statement (.ldB x) := by
  intro cfg w h
  cases h
  exact ⟨op_xnn _ _ _, x_xnn _ _ _, nn_xnn _ _ _⟩

theorem Sys2Proof.Laws.FieldsInWord.ldMiVx (x : Reg) : Statement (.ldMiVx x) := by
  intro cfg w h
  cases h
  exact ⟨op_xnn _ _ _, x_xnn _ _ _, nn_xnn _ _ _⟩

theorem Sys2Proof.Laws.FieldsInWord.ldVxMi (x : Reg) : Statement (.ldVxMi x) := by
  intro cfg w h
  cases h
  exact ⟨op_xnn _ _ _, x_xnn _ _ _, nn_xnn _ _ _⟩

theorem Sys2Proof.Laws.FieldsInWord.scd (n : Nibble) : Statement (.scd n) := by
  intro cfg w h
  cases h
  exact ⟨top_n4 _ _, n_n4 _ _⟩

theorem Sys2Proof.Laws.FieldsInWord.scr : Statement (.scr) := by
  intro cfg w h
  exact (Option.some.inj h).symm

theorem Sys2Proof.Laws.FieldsInWord.scl : Statement (.scl) := by
  intro cfg w h
  exact (Option.some.inj h).symm

theorem Sys2Proof.Laws.FieldsInWord.exit : Statement (.exit) := by
  intro cfg w h
  exact (Option.some.inj h).symm

theorem Sys2Proof.Laws.FieldsInWord.low : Statement (.low) := by
  intro cfg w h
  exact (Option.some.inj h).symm

theorem Sys2Proof.Laws.FieldsInWord.high : Statement (.high) := by
  intro cfg w h
  exact (Option.some.inj h).symm

theorem Sys2Proof.Laws.FieldsInWord.ldHf (x : Reg) : Statement (.ldHf x) := by
  intro cfg w h
  cases h
  exact ⟨op_xnn _ _ _, x_xnn _ _ _, nn_xnn _ _ _⟩

theorem Sys2Proof.Laws.FieldsInWord.ldRVx (x : Reg) : Statement (.ldRVx x) := by
  intro cfg w h
  cases h
  exact ⟨op_xnn _ _ _, x_xnn _ _ _, nn_xnn _ _ _⟩

theorem Sys2Proof.Laws.FieldsInWord.ldVxR (x : Reg) : Statement (.ldVxR x) := by
  intro cfg w h
  cases h
  exact ⟨op_xnn _ _ _, x_xnn _ _ _, nn_xnn _ _ _⟩

theorem Sys2Proof.Laws.FieldsInWord.c8eSks (x y : Reg) : Statement (.c8eSks x y) := by
  intro cfg w h
  obtain ⟨p, -, rfl⟩ := Option.map_eq_some_iff.mp h
  exact ⟨x_word _ _ _, y_word _ _ _⟩

theorem Sys2Proof.Laws.FieldsInWord.c8eMul (x y : Reg) : Statement (.c8eMul x y) := by
  intro cfg w h
  obtain ⟨p, -, rfl⟩ := Option.map_eq_some_iff.mp h
  exact ⟨x_word _ _ _, y_word _ _ _⟩

theorem Sys2Proof.Laws.FieldsInWord.c8eDiv (x y : Reg) : Statement (.c8eDiv x y) := by
  intro cfg w h
  obtain ⟨p, -, rfl⟩ := Option.map_eq_some_iff.mp h
  exact ⟨x_word _ _ _, y_word _ _ _⟩

theorem Sys2Proof.Laws.FieldsInWord.c8eBcd16 (x y : Reg) : Statement (.c8eBcd16 x y) := by
  intro cfg w h
  obtain ⟨p, -, rfl⟩ := Option.map_eq_some_iff.mp h
  exact ⟨x_word _ _ _, y_word _ _ _⟩

theorem Sys2Proof.Laws.FieldsInWord.c8eAscii (x y : Reg) : Statement (.c8eAscii x y) := by
  intro cfg w h
  obtain ⟨p, -, rfl⟩ := Option.map_eq_some_iff.mp h
  exact ⟨x_word _ _ _, y_word _ _ _⟩

theorem Sys2Proof.Laws.FieldsInWord.c8eOp6 (x y : Reg) : Statement (.c8eOp6 x y) := by
  intro cfg w h
  obtain ⟨p, -, h⟩ := Option.bind_eq_some_iff.mp h
  obtain ⟨o, -, rfl⟩ := Option.map_eq_some_iff.mp h
  exact ⟨x_word _ _ _, y_word _ _ _⟩

end
end

