-- ==== Sys2Proof/Laws/Step.lean ====
section
/-! SUPPORT. What a step can do, said once. -/

namespace Sys2Proof.Machine

/-- If the Cpu's step answers a next state, one of these holds: the fetch check failed, the word is illegal, or the decoded
instruction ran (R133, R135, R136). -/
theorem cpuStep_cases (s t : State) (h : cpuStep s = .next t) : s.fault = none ∧ s.halted = false ∧
    ((fetchFails s.advance = true ∧ t = s.advance.takeFault .fetchRange none none) ∨
     (fetchFails s.advance = false ∧ ∃ e, decode s.cfg (fetchWord s.advance) = .error e ∧
        t = s.advance.takeFault .decode (some (fetchWord s.advance)) none) ∨
     (fetchFails s.advance = false ∧ ∃ i, decode s.cfg (fetchWord s.advance) = .ok i ∧
        ∃ u, exec i s.advance = .next u ∧ t = u.finish i)) := by
  unfold cpuStep at h
  split at h
  · cases h
  · rename_i hf
    split at h
    · cases h
    · rename_i hh
      refine ⟨by simpa using hf, by simpa using hh, ?_⟩
      unfold runAdvanced at h
      split at h
      · rename_i hff
        cases h
        exact .inl ⟨hff, rfl⟩
      · rename_i hff
        have hff : fetchFails s.advance = false := by simpa using hff
        unfold runFetched at h
        rw [show s.advance.cfg = s.cfg from rfl] at h
        cases hd : decode s.cfg (fetchWord s.advance) with
        | error e =>
          rw [hd] at h
          cases h
          exact .inr (.inl ⟨hff, e, rfl, rfl⟩)
        | ok i =>
          rw [hd] at h
          change finish i (exec i s.advance) = .next t at h
          refine .inr (.inr ⟨hff, i, rfl, ?_⟩)
          cases hx : exec i s.advance with
          | next u => rw [hx] at h; cases h; exact ⟨u, rfl, rfl⟩
          | fault f => rw [hx] at h; cases h
          | refused r => rw [hx] at h; cases h

/-- A step is the Cpu's step in the state the host leaves. -/
theorem step_eq (s : State) : step s = cpuStep s.takeInputs := rfl

/-- Recording the step result touches nothing else. -/
theorem finish_eq (i : Instr) (s : State) : s.finish i = { s with result := (s.finish i).result } := by
  unfold State.finish; split <;> rfl

theorem finish_of_fault (i : Instr) (s : State) (r : FaultRecord) (h : s.fault = some r) : s.finish i = s := by
  simp [State.finish, h]

theorem finish_of_none (i : Instr) (s : State) (h : s.fault = none) :
    s.finish i = { s with result := some (stepResult s.cfg i) } := by
  simp [State.finish, h]

/-! ## The host -/

/-- The host's actions keep whatever every single action keeps. -/
theorem hostActions_induction (P : State → Prop) (hact : ∀ s a, P s → P (s.hostAction a)) (as : List HostAction) :
    ∀ s, P s → P (s.hostActions as) := by
  induction as with
  | nil => intro s h; exact h
  | cons a as ih => intro s h; exact ih _ (hact s a h)

/-- What holds of a state and is kept by dropping a batch and by every action holds when the step begins. -/
theorem takeInputs_induction (P : State → Prop) (hdrop : ∀ s r, P s → P { s with inputs := r })
    (hact : ∀ s a, P s → P (s.hostAction a)) (s : State) (h : P s) : P s.takeInputs := by
  unfold State.takeInputs
  split
  · exact h
  · exact hostActions_induction P hact _ _ (hdrop s _ h)

/-- A reload fails for an empty image and for one that does not fit, and re-initialises the machine otherwise (R407, R503). -/
theorem reload_cases (s : State) :
    ((s.image.length = 0 ∨ s.cfg.memSize < programBase + s.image.length) ∧ ∃ e, s.reload = .error e) ∨
    (s.image.length ≠ 0 ∧ programBase + s.image.length ≤ s.cfg.memSize ∧ s.reload = .ok s.reinit) := by
  unfold State.reload
  by_cases h0 : s.image.length = 0
  · exact .inl ⟨.inl h0, .empty, by simp [h0]⟩
  · by_cases h1 : s.cfg.memSize < programBase + s.image.length
    · exact .inl ⟨.inr h1, .tooLarge, by simp [h0, h1]⟩
    · exact .inr ⟨h0, by omega, by simp [h0, h1]⟩

/-- A host action changes the clock reading or the key set, changes nothing, or re-initialises the machine with an image that fits
(R440). -/
theorem hostAction_cases (s : State) (a : HostAction) :
    (∃ n, a = .clock n ∧ s.hostAction a = { s with now := n }) ∨
    (∃ d, a = .keys d ∧ s.hostAction a = { s with down := d }) ∨ s.hostAction a = s ∨
    ∃ image : List Byte, image.length ≠ 0 ∧ programBase + image.length ≤ s.cfg.memSize ∧
      s.hostAction a = State.reinit { s with image := image } := by
  cases a with
  | clock n => exact .inl ⟨n, rfl, rfl⟩
  | keys d => exact .inr (.inl ⟨d, rfl, rfl⟩)
  | load rom =>
    rcases reload_cases { s with image := rom } with ⟨-, e, h⟩ | ⟨h0, h1, h⟩
    · exact .inr (.inr (.inl (by simp [State.hostAction, State.load, h, State.orKept])))
    · exact .inr (.inr (.inr ⟨rom, h0, h1, by simp [State.hostAction, State.load, h, State.orKept]⟩))
  | reload =>
    rcases reload_cases s with ⟨-, e, h⟩ | ⟨h0, h1, h⟩
    · exact .inr (.inr (.inl (by simp [State.hostAction, h, State.orKept])))
    · exact .inr (.inr (.inr ⟨s.image, h0, h1, by simp [State.hostAction, h, State.orKept]⟩))

/-! ## Memory after a reload -/

theorem mem_imageCells (bs : List Byte) : ∀ (a : Nat) (c : Host.Cell), c ∈ imageCells a bs →
    a ≤ c.1 ∧ c.1 < a + bs.length ∧ c.2 ≠ 0#8 := by
  induction bs with
  | nil => intro a c h; cases h
  | cons b bs ih =>
    intro a c h
    rw [imageCells] at h
    have key : c ∈ imageCells (a + 1) bs → a ≤ c.1 ∧ c.1 < a + (b :: bs).length ∧ c.2 ≠ 0#8 := fun h => by
      obtain ⟨h1, h2, h3⟩ := ih _ _ h
      simp only [List.length_cons]
      exact ⟨by omega, by omega, h3⟩
    split at h
    · exact key h
    · rename_i hb
      rcases List.mem_cons.mp h with rfl | h
      · exact ⟨Nat.le_refl _, by simp, hb⟩
      · exact key h

theorem sorted_imageCells (bs : List Byte) : ∀ a, (imageCells a bs).Pairwise (fun c d => c.1 < d.1) := by
  induction bs with
  | nil => intro a; exact List.Pairwise.nil
  | cons b bs ih =>
    intro a
    rw [imageCells]
    split
    · exact ih _
    · refine List.pairwise_cons.mpr ⟨fun d hd => ?_, ih _⟩
      have := mem_imageCells bs _ d hd
      dsimp only; omega

/-- At 0x200 and above, the construction contents are 0 (R500). -/
theorem initByte_high (c : Config) (a : Nat) (h : programBase ≤ a) : c.initByte a = 0#8 := by
  simp [Config.initByte, h]

/-- A reload leaves memory in its canonical form (R503). -/
theorem wf_reloadMemory (c : Config) (m : Memory) (image : List Byte) (hm : Memory.wf c.memSize c.initByte m)
    (hi : programBase + image.length ≤ c.memSize) : Memory.wf c.memSize c.initByte (reloadMemory m image) := by
  constructor
  · refine List.pairwise_append.mpr ⟨hm.1.filter _, sorted_imageCells _ _, fun d hd e he => ?_⟩
    have hd := (List.mem_filter.mp hd).2
    have he := mem_imageCells _ _ _ he
    simp only [decide_eq_true_eq] at hd
    omega
  · intro d hd
    rcases List.mem_append.mp hd with hd | hd
    · exact hm.2 d (List.mem_filter.mp hd).1
    · obtain ⟨h1, h2, h3⟩ := mem_imageCells _ _ _ hd
      exact ⟨by omega, by rw [initByte_high c _ h1]; exact h3⟩

theorem read_append_high (init : Nat → Byte) (m k : Memory) (a : Nat) (h : ∀ c ∈ m, c.1 < a) :
    Memory.read init (m ++ k) a = Memory.read init k a := by
  induction m with
  | nil => rfl
  | cons c m ih =>
    have hc := h c (by simp)
    rw [List.cons_append, Memory.read, if_neg (by omega)]
    exact ih fun d hd => h d (by simp [hd])

theorem read_imageCells (init : Nat → Byte) (bs : List Byte) : ∀ (a x : Nat), a ≤ x → (∀ y, a ≤ y → init y = 0#8) →
    Memory.read init (imageCells a bs) x = bs.getD (x - a) 0#8 := by
  induction bs with
  | nil => intro a x hx hi; simp [imageCells, Memory.read, hi x hx]
  | cons b bs ih =>
    intro a x hx hi
    rw [imageCells]
    rcases Nat.eq_or_lt_of_le hx with e | hlt
    · subst e
      have hlow : Memory.read init (imageCells (a + 1) bs) a = 0#8 := by
        rw [Memory.read_of_lt init _ a fun c hc => by have := mem_imageCells bs _ c hc; omega]
        exact hi a (Nat.le_refl _)
      by_cases hb : b = 0#8
      · simp [hb, hlow]
      · simp [hb, Memory.read]
    · have e : x - a = (x - (a + 1)) + 1 := by omega
      have := ih (a + 1) x (by omega) fun y hy => hi y (by omega)
      by_cases hb : b = 0#8
      · rw [if_pos hb, this, e, List.getD_cons_succ]
      · rw [if_neg hb, Memory.read, if_neg (by omega), this, e, List.getD_cons_succ]

theorem read_filter_low (init : Nat → Byte) (m k : Memory) (a : Nat) (ha : a < programBase)
    (hk : ∀ c ∈ k, programBase ≤ c.1) :
    Memory.read init (m.filter (fun c => decide (c.1 < programBase)) ++ k) a = Memory.read init m a := by
  induction m with
  | nil =>
    rw [List.filter_nil, List.nil_append, Memory.read_of_lt init k a fun c hc => by have := hk c hc; omega]
    rfl
  | cons c m ih =>
    by_cases hc : c.1 < programBase
    · rw [List.filter_cons_of_pos (by simpa using hc), List.cons_append, Memory.read, Memory.read, ih]
    · rw [List.filter_cons_of_neg (by simpa using hc), ih, Memory.read, if_neg (by omega)]

/-- The bytes after a reload: the image at the program base, 0 above it, and the old byte below it (R503). -/
theorem byte_reinit (s : State) (x : Nat) : s.reinit.byte x =
    if x < programBase then s.byte x else s.image.getD (x - programBase) 0#8 := by
  have e : s.reinit.byte x = Memory.read s.cfg.initByte (reloadMemory s.mem s.image) x := rfl
  rw [e, reloadMemory]
  split
  · rename_i h
    exact read_filter_low _ _ _ _ h fun c hc => (mem_imageCells _ _ _ hc).1
  · rename_i h
    have hle : programBase ≤ x := Nat.le_of_not_lt h
    rw [read_append_high _ _ _ _ fun c hc => ?_, read_imageCells _ _ _ _ hle fun y hy => initByte_high _ _ hy]
    have := (List.mem_filter.mp hc).2
    simp only [decide_eq_true_eq] at this
    omega

end Sys2Proof.Machine
end

