-- ==== Sys2Proof/Machine/Assembly.lean ====
section
/-! DEFINITION. The assembler syntax of an instruction (30_encoding.md R108): numbers in hexadecimal, registers `V0` to `VF`. -/

namespace Sys2Proof

/-- A hexadecimal digit. -/
def hexDigit (n : Nibble) : String :=
  match n.toNat with
  | 0x0 => "0" | 0x1 => "1" | 0x2 => "2" | 0x3 => "3" | 0x4 => "4" | 0x5 => "5" | 0x6 => "6" | 0x7 => "7"
  | 0x8 => "8" | 0x9 => "9" | 0xA => "A" | 0xB => "B" | 0xC => "C" | 0xD => "D" | 0xE => "E" | _ => "F"

/-- A byte as two digits. -/
def hexByte (b : Byte) : String := hexDigit (b.extractLsb' 4 4) ++ hexDigit (b.extractLsb' 0 4)

/-- An address as three digits. -/
def hexAddr (a : Addr) : String := hexDigit (a.extractLsb' 8 4) ++ hexByte (a.extractLsb' 0 8)

/-- The name of a register. -/
def regName (x : Reg) : String := "V" ++ hexDigit x

/-- A mnemonic with two operands. -/
def twoOperands (m a b : String) : String := m ++ " " ++ a ++ ", " ++ b

/-- The text of an instruction (R108). BNNN names V0, or under SChip the register of its top nibble. For the CHIP-8E
operations, which R108 does not list, the text is the opcode table's mnemonic with the two registers (log 24). -/
def Instr.text (cfg : Config) : Instr → String
  | .sys nnn => "SYS " ++ hexAddr nnn
  | .cls => "CLS"
  | .ret => "RET"
  | .jp nnn => "JP " ++ hexAddr nnn
  | .call nnn => "CALL " ++ hexAddr nnn
  | .seVxNn x nn => twoOperands "SE" (regName x) (hexByte nn)
  | .sneVxNn x nn => twoOperands "SNE" (regName x) (hexByte nn)
  | .seVxVy x y => twoOperands "SE" (regName x) (regName y)
  | .ldVxNn x nn => twoOperands "LD" (regName x) (hexByte nn)
  | .addVxNn x nn => twoOperands "ADD" (regName x) (hexByte nn)
  | .ldVxVy x y => twoOperands "LD" (regName x) (regName y)
  | .or x y => twoOperands "OR" (regName x) (regName y)
  | .and x y => twoOperands "AND" (regName x) (regName y)
  | .xor x y => twoOperands "XOR" (regName x) (regName y)
  | .addVxVy x y => twoOperands "ADD" (regName x) (regName y)
  | .sub x y => twoOperands "SUB" (regName x) (regName y)
  | .shr x y => twoOperands "SHR" (regName x) (regName y)
  | .subn x y => twoOperands "SUBN" (regName x) (regName y)
  | .shl x y => twoOperands "SHL" (regName x) (regName y)
  | .sneVxVy x y => twoOperands "SNE" (regName x) (regName y)
  | .ldI nnn => twoOperands "LD" "I" (hexAddr nnn)
  | .jpV0 nnn =>
    match cfg.profile with
    | .vip => twoOperands "JP" "V0" (hexAddr nnn)
    | .sChip => twoOperands "JP" (regName (nnn.extractLsb' 8 4)) (hexAddr nnn)
  | .rnd x nn => twoOperands "RND" (regName x) (hexByte nn)
  | .drw x y n => twoOperands "DRW" (regName x) (regName y) ++ ", " ++ hexDigit n
  | .drw16 x y => twoOperands "DRW" (regName x) (regName y) ++ ", 0"
  | .skp x => "SKP " ++ regName x
  | .sknp x => "SKNP " ++ regName x
  | .ldVxDt x => twoOperands "LD" (regName x) "DT"
  | .ldVxK x => twoOperands "LD" (regName x) "K"
  | .ldDtVx x => twoOperands "LD" "DT" (regName x)
  | .ldStVx x => twoOperands "LD" "ST" (regName x)
  | .addIVx x => twoOperands "ADD" "I" (regName x)
  | .ldF x => twoOperands "LD" "F" (regName x)
  | .ldB x => twoOperands "LD" "B" (regName x)
  | .ldMiVx x => twoOperands "LD" "[I]" (regName x)
  | .ldVxMi x => twoOperands "LD" (regName x) "[I]"
  | .scd n => "SCD " ++ hexDigit n
  | .scr => "SCR"
  | .scl => "SCL"
  | .exit => "EXIT"
  | .low => "LOW"
  | .high => "HIGH"
  | .ldHf x => twoOperands "LD" "HF" (regName x)
  | .ldRVx x => twoOperands "LD" "R" (regName x)
  | .ldVxR x => twoOperands "LD" (regName x) "R"
  | .c8eSks x y => twoOperands "C8E_SKS" (regName x) (regName y)
  | .c8eMul x y => twoOperands "C8E_MUL" (regName x) (regName y)
  | .c8eDiv x y => twoOperands "C8E_DIV" (regName x) (regName y)
  | .c8eBcd16 x y => twoOperands "C8E_BCD16" (regName x) (regName y)
  | .c8eAscii x y => twoOperands "C8E_ASCII" (regName x) (regName y)
  | .c8eOp6 x y => twoOperands "C8E_OP6" (regName x) (regName y)

end Sys2Proof
end

