-- ==== Sys2Proof/Tests/Slice0.lean ====
section
/-! SUPPORT. The model's own tests: checks of WellFormed, decoding by words written out from spec/opcode_table.json, single steps
with results from spec/95_test_vectors.md, and a witness for the hypotheses of every statement. -/

namespace Sys2Proof.Tests
open Sys2Proof Sys2Proof.Machine

/-! ## Machines -/

/-- A CHIP-8E machine: encodings chosen inside the illegal set (R106) and tables placed inside 0x0F0..0x1FF (R337). -/
def c8e : C8E where
  encSks        := ⟨0x5001, 0xF00F⟩
  encMul        := ⟨0x5002, 0xF00F⟩
  encDiv        := ⟨0x5003, 0xF00F⟩
  encBcd16      := ⟨0x5004, 0xF00F⟩
  encAscii      := ⟨0x5005, 0xF00F⟩
  skipRel       := .gt
  mulVfHalf     := .high
  divResult     := .quotRem
  bcdSource     := .vxVy
  asciiPatBase  := 0x0F0
  asciiIdxBase  := 0x0F4
  asciiScratch  := 0x1F8
  asciiRows     := 8
  asciiPatterns := [1, 2]
  asciiIndex    := [3]
  asciiResult   := .nothing
  op6           := some ⟨⟨0x9001, 0xF00F⟩, .signedSkip .lt⟩
  fontHiExt     := List.replicate 60 0x5A

/-- The default machine, the one under Vip, and one with CHIP-8E parameters. -/
def sc : State := State.powerOn Config.default
def vp : State := State.powerOn { Config.default with profile := .vip }
def ce (p : C8E) : State := State.powerOn { Config.default with c8e := some p }

/-- Registers set from a list of numbers and values. -/
def regs (s : State) (l : List (Reg × Byte)) : State := l.foldl (fun t p => t.setReg p.1 p.2) s

/-- The set of the listed keys. -/
def keys (l : List Nibble) : KeySet := l.foldl KeySet.insert KeySet.empty

/-- One step that runs a word. -/
def run (s : State) (w : Nat) : Result := step (s.withFetchWord 16 w)

/-- What a next state holds, or what any other outcome gives. -/
def of {α : Type} (r : Result) (d : α) (f : State → α) : α :=
  match r with
  | .next t => f t
  | .fault _ => d
  | .refused _ => d

/-- The code and the address of the fault of a step. -/
def faultOf (r : Result) : Option (FaultCode × Option Nat) :=
  of r none fun t => t.fault.map fun f => (f.code, f.addr)

/-- The register, `pc`, `I` or byte of a step that did not fault. -/
def regOf (r : Result) (x : Reg) : Option Byte := of r none fun t => if t.fault = none then some (t.reg x) else none
def pcOf (r : Result) : Option Addr := of r none fun t => if t.fault = none then some t.pc else none
def iOf (r : Result) : Option Addr := of r none fun t => if t.fault = none then some t.i else none
def bytesOf (r : Result) (a n : Nat) : Option (List Byte) :=
  of r none fun t => if t.fault = none then some (t.bytes a n) else none
def pixelOf (r : Result) (x y : Nat) : Option Bool :=
  of r none fun t => if t.fault = none then some (pixel t.fb x y) else none

/-! ## WellFormed: an ill-formed term for each check -/

theorem test_wf_sys_cls : (Instr.sys 0x0E0).wellFormed Config.default = false := by decide
theorem test_wf_sys_ret : (Instr.sys 0x0EE).wellFormed Config.default = false := by decide
theorem test_wf_sys_scd : (Instr.sys 0x0C5).wellFormed Config.default = false := by decide
theorem test_wf_sys_scr : (Instr.sys 0x0FB).wellFormed Config.default = false := by decide
theorem test_wf_sys_scl : (Instr.sys 0x0FC).wellFormed Config.default = false := by decide
theorem test_wf_sys_exit : (Instr.sys 0x0FD).wellFormed Config.default = false := by decide
theorem test_wf_sys_low : (Instr.sys 0x0FE).wellFormed Config.default = false := by decide
theorem test_wf_sys_high : (Instr.sys 0x0FF).wellFormed Config.default = false := by decide
theorem test_wf_drw_zero : (Instr.drw 0 0 0).wellFormed Config.default = false := by decide
/-- CHIP-8E operations on a machine without the family. -/
theorem test_wf_c8e_disabled : [Instr.c8eSks 1 2, .c8eMul 1 2, .c8eDiv 1 2, .c8eBcd16 1 2, .c8eAscii 1 2, .c8eOp6 1 2].all
    (fun i => !i.wellFormed Config.default) = true := by decide
/-- A row that does not leave `y` to the operands has a word only for its own `y`. -/
theorem test_wf_c8e_fields :
    (Instr.c8eBcd16 1 2).wellFormed (ce { c8e with encBcd16 := ⟨0x5034, 0xF0FF⟩ }).cfg = false := by decide
/-- An empty sixth encoding. -/
theorem test_wf_c8e_op6 : (Instr.c8eOp6 1 2).wellFormed (ce { c8e with op6 := none }).cfg = false := by decide
theorem test_wf_accepts : (Instr.sys 0x123).wellFormed Config.default = true ∧ (Instr.drw 1 2 5).wellFormed Config.default = true ∧
    (Instr.c8eBcd16 1 2).wellFormed (ce c8e).cfg = true := by decide

/-! ## Decode: a word of every row, written out from its match, mask and fields -/

theorem test_decode_sys : decodeTableWord 16 0x0123 = some (.sys 0x123) := by decide
theorem test_decode_cls : decodeTableWord 16 0x00E0 = some .cls := by decide
theorem test_decode_ret : decodeTableWord 16 0x00EE = some .ret := by decide
theorem test_decode_jp : decodeTableWord 16 0x1ABC = some (.jp 0xABC) := by decide
theorem test_decode_call : decodeTableWord 16 0x2ABC = some (.call 0xABC) := by decide
theorem test_decode_seVxNn : decodeTableWord 16 0x3A5C = some (.seVxNn 0xA 0x5C) := by decide
theorem test_decode_sneVxNn : decodeTableWord 16 0x4A5C = some (.sneVxNn 0xA 0x5C) := by decide
theorem test_decode_seVxVy : decodeTableWord 16 0x5AB0 = some (.seVxVy 0xA 0xB) := by decide
theorem test_decode_ldVxNn : decodeTableWord 16 0x6A5C = some (.ldVxNn 0xA 0x5C) := by decide
theorem test_decode_addVxNn : decodeTableWord 16 0x7A5C = some (.addVxNn 0xA 0x5C) := by decide
theorem test_decode_ldVxVy : decodeTableWord 16 0x8AB0 = some (.ldVxVy 0xA 0xB) := by decide
theorem test_decode_or : decodeTableWord 16 0x8AB1 = some (.or 0xA 0xB) := by decide
theorem test_decode_and : decodeTableWord 16 0x8AB2 = some (.and 0xA 0xB) := by decide
theorem test_decode_xor : decodeTableWord 16 0x8AB3 = some (.xor 0xA 0xB) := by decide
theorem test_decode_addVxVy : decodeTableWord 16 0x8AB4 = some (.addVxVy 0xA 0xB) := by decide
theorem test_decode_sub : decodeTableWord 16 0x8AB5 = some (.sub 0xA 0xB) := by decide
theorem test_decode_shr : decodeTableWord 16 0x8AB6 = some (.shr 0xA 0xB) := by decide
theorem test_decode_subn : decodeTableWord 16 0x8AB7 = some (.subn 0xA 0xB) := by decide
theorem test_decode_shl : decodeTableWord 16 0x8ABE = some (.shl 0xA 0xB) := by decide
theorem test_decode_sneVxVy : decodeTableWord 16 0x9AB0 = some (.sneVxVy 0xA 0xB) := by decide
theorem test_decode_ldI : decodeTableWord 16 0xAABC = some (.ldI 0xABC) := by decide
theorem test_decode_jpV0 : decodeTableWord 16 0xBABC = some (.jpV0 0xABC) := by decide
theorem test_decode_rnd : decodeTableWord 16 0xCA5C = some (.rnd 0xA 0x5C) := by decide
theorem test_decode_drw : decodeTableWord 16 0xDAB7 = some (.drw 0xA 0xB 7) := by decide
theorem test_decode_drw16 : decodeTableWord 16 0xDAB0 = some (.drw16 0xA 0xB) := by decide
theorem test_decode_skp : decodeTableWord 16 0xEA9E = some (.skp 0xA) := by decide
theorem test_decode_sknp : decodeTableWord 16 0xEAA1 = some (.sknp 0xA) := by decide
theorem test_decode_ldVxDt : decodeTableWord 16 0xFA07 = some (.ldVxDt 0xA) := by decide
theorem test_decode_ldVxK : decodeTableWord 16 0xFA0A = some (.ldVxK 0xA) := by decide
theorem test_decode_ldDtVx : decodeTableWord 16 0xFA15 = some (.ldDtVx 0xA) := by decide
theorem test_decode_ldStVx : decodeTableWord 16 0xFA18 = some (.ldStVx 0xA) := by decide
theorem test_decode_addIVx : decodeTableWord 16 0xFA1E = some (.addIVx 0xA) := by decide
theorem test_decode_ldF : decodeTableWord 16 0xFA29 = some (.ldF 0xA) := by decide
theorem test_decode_ldB : decodeTableWord 16 0xFA33 = some (.ldB 0xA) := by decide
theorem test_decode_ldMiVx : decodeTableWord 16 0xFA55 = some (.ldMiVx 0xA) := by decide
theorem test_decode_ldVxMi : decodeTableWord 16 0xFA65 = some (.ldVxMi 0xA) := by decide
theorem test_decode_scd : decodeTableWord 16 0x00C7 = some (.scd 7) := by decide
theorem test_decode_scr : decodeTableWord 16 0x00FB = some .scr := by decide
theorem test_decode_scl : decodeTableWord 16 0x00FC = some .scl := by decide
theorem test_decode_exit : decodeTableWord 16 0x00FD = some .exit := by decide
theorem test_decode_low : decodeTableWord 16 0x00FE = some .low := by decide
theorem test_decode_high : decodeTableWord 16 0x00FF = some .high := by decide
theorem test_decode_ldHf : decodeTableWord 16 0xFA30 = some (.ldHf 0xA) := by decide
theorem test_decode_ldRVx : decodeTableWord 16 0xFA75 = some (.ldRVx 0xA) := by decide
theorem test_decode_ldVxR : decodeTableWord 16 0xFA85 = some (.ldVxR 0xA) := by decide
/-- The CHIP-8E rows have no encoding in the table; these are the words of the test machine's rows (R106). -/
theorem test_decode_c8e : decode (ce c8e).cfg 0x5AB1 = .ok (.c8eSks 0xA 0xB) ∧ decode (ce c8e).cfg 0x5AB2 = .ok (.c8eMul 0xA 0xB) ∧
    decode (ce c8e).cfg 0x5AB3 = .ok (.c8eDiv 0xA 0xB) ∧ decode (ce c8e).cfg 0x5AB4 = .ok (.c8eBcd16 0xA 0xB) ∧
    decode (ce c8e).cfg 0x5AB5 = .ok (.c8eAscii 0xA 0xB) ∧ decode (ce c8e).cfg 0x9AB1 = .ok (.c8eOp6 0xA 0xB) := by decide
/-- FD5, and an ordinary word on the CHIP-8E machine. -/
theorem test_decode_illegal : [0x8008, 0x800F, 0x9121, 0xE000, 0xE09F, 0xF000, 0xF0FF, 0x5121].all
    (fun w => decodeTableWord 16 w == none) = true := by decide

/-- The syntax of programs P2, P3 and P5, and of BNNN under each profile (R108). -/
theorem test_text : Instr.text Config.default (.ldVxNn 0 0xFF) = "LD V0, FF" ∧
    Instr.text Config.default (.drw 0 0 5) = "DRW V0, V0, 5" ∧ Instr.text Config.default (.ldMiVx 1) = "LD [I], V1" ∧
    Instr.text Config.default (.jpV0 0x230) = "JP V2, 230" ∧ Instr.text vp.cfg (.jpV0 0x230) = "JP V0, 230" := by decide

/-! ## Control flow (95_test_vectors.md 2.1) -/

/-- FD6. -/
theorem test_sys : pcOf (run sc 0x00E1) = some 0x200 := by decide
/-- CF1. -/
theorem test_jp : pcOf (run sc 0x1208) = some 0x206 := by decide
/-- CF2. -/
theorem test_call : of (run sc 0x2206) none (fun t => some (t.sp, t.stack[0], t.pc)) = some (1, 0x200, 0x204) := by decide
/-- CF5. -/
theorem test_call_overflow : faultOf (run { vp with sp := 12 } 0x2300) = some (.stackOverflow, none) := by decide
/-- CF3. -/
theorem test_ret : of (run { sc with sp := 1, stack := sc.stack.set 0 0x2A4 } 0x00EE) none (fun t => some (t.sp, t.pc)) =
    some (0, 0x2A4) := by decide
/-- CF4. -/
theorem test_ret_underflow : faultOf (run sc 0x00EE) = some (.stackUnderflow, none) := by decide
/-- CF8, CF9. -/
theorem test_seVxNn : pcOf (run (regs sc [(3, 0x10)]) 0x3310) = some 0x202 ∧
    pcOf (run (regs sc [(3, 0x10)]) 0x3311) = some 0x200 := by decide
/-- CF10. -/
theorem test_sneVxNn : pcOf (run (regs sc [(3, 0x10)]) 0x4311) = some 0x202 ∧
    pcOf (run (regs sc [(3, 0x10)]) 0x4310) = some 0x200 := by decide
/-- CF11. -/
theorem test_seVxVy : pcOf (run (regs sc [(1, 7), (2, 7)]) 0x5120) = some 0x202 := by decide
/-- CF13. -/
theorem test_sneVxVy : pcOf (run (regs sc [(1, 7), (2, 8)]) 0x9120) = some 0x202 := by decide
/-- CF16. -/
theorem test_jpV0_sChip : pcOf (run (regs sc [(0, 4), (2, 6)]) 0xB230) = some 0x234 := by decide
/-- CF15, CF17. -/
theorem test_jpV0_vip : pcOf (run (regs vp [(0, 4), (2, 6)]) 0xB230) = some 0x232 ∧
    pcOf (run (regs vp [(0, 0xFF)]) 0xBFFF) = some 0x0FC := by decide

/-! ## Arithmetic (95_test_vectors.md 2.2) -/

/-- AL1. -/
theorem test_ldVxNn : regOf (run sc 0x6A05) 0xA = some 5 := by decide
/-- AL2. -/
theorem test_addVxNn : regOf (run (regs sc [(1, 0xFE), (VF, 7)]) 0x7103) 1 = some 1 ∧
    regOf (run (regs sc [(1, 0xFE), (VF, 7)]) 0x7103) VF = some 7 := by decide
/-- AL4. -/
theorem test_ldVxVy : regOf (run (regs sc [(2, 9)]) 0x8120) 1 = some 9 := by decide
/-- AL5, AL6. -/
theorem test_or : regOf (run (regs vp [(0, 0x81), (1, 3), (VF, 5)]) 0x8011) VF = some 0 ∧
    regOf (run (regs sc [(0, 0x81), (1, 3), (VF, 5)]) 0x8011) VF = some 5 := by decide
/-- AL10: the clear of VF is written last. -/
theorem test_or_vf : regOf (run (regs vp [(VF, 0x0F), (1, 0xF0)]) 0x8F11) VF = some 0 := by decide
/-- AL7. -/
theorem test_and : regOf (run (regs vp [(0, 0x81), (1, 3)]) 0x8012) 0 = some 1 := by decide
/-- AL8. -/
theorem test_xor : regOf (run (regs sc [(0, 0x81), (1, 3)]) 0x8013) 0 = some 0x82 := by decide
/-- AL11. -/
theorem test_addVxVy : regOf (run (regs sc [(0, 0xFF), (1, 2)]) 0x8014) 0 = some 1 := by decide
/-- AL14: the flag survives in VF. -/
theorem test_addVxVy_vf : regOf (run (regs sc [(VF, 0xFF), (1, 2)]) 0x8F14) VF = some 1 := by decide
/-- AL15. -/
theorem test_sub : regOf (run (regs sc [(0, 1), (1, 2)]) 0x8015) 0 = some 0xFF ∧
    regOf (run (regs sc [(0, 1), (1, 2)]) 0x8015) VF = some 0 := by decide
/-- AL16. -/
theorem test_sub_equal : regOf (run (regs sc [(0, 5), (1, 5)]) 0x8015) VF = some 1 := by decide
/-- AL19, AL18. -/
theorem test_subn : regOf (run (regs sc [(0, 3), (1, 5)]) 0x8017) 0 = some 2 ∧
    regOf (run (regs sc [(0, 5), (1, 3)]) 0x8017) VF = some 0 := by decide
/-- AL20. -/
theorem test_shr_vip : regOf (run (regs vp [(0, 0x81), (1, 3)]) 0x8016) 0 = some 1 := by decide
/-- AL21. -/
theorem test_shr_sChip : regOf (run (regs sc [(0, 0x81), (1, 3)]) 0x8016) 0 = some 0x40 := by decide
/-- AL22. -/
theorem test_shl_vip : regOf (run (regs vp [(0, 0x81), (1, 3)]) 0x801E) 0 = some 6 := by decide
/-- AL23. -/
theorem test_shl_sChip : regOf (run (regs sc [(0, 0x81), (1, 3)]) 0x801E) VF = some 1 := by decide
/-- AL28: the draw is free, its mask is not. -/
theorem test_rnd : of (run sc 0xC300) none (fun t => some t.draws) = some 1 := by decide

/-! ## Address register, memory, timers, keys (95_test_vectors.md 2.3 to 2.5) -/

/-- ME1. -/
theorem test_ldI : iOf (run sc 0xA300) = some 0x300 := by decide
/-- ME3. -/
theorem test_addIVx : iOf (run (regs { sc with i := 0xFFF } [(0, 1)]) 0xF01E) = some 0 := by decide
/-- ME5. -/
theorem test_ldF : iOf (run (regs sc [(0, 0xF)]) 0xF029) = some 0x04B := by decide
/-- ME6. -/
theorem test_ldF_operand : faultOf (run (regs sc [(0, 0x10)]) 0xF029) = some (.operand, none) := by decide
/-- ME7. -/
theorem test_ldB : bytesOf (run (regs { sc with i := 0x300 } [(0, 0xFE)]) 0xF033) 0x300 3 = some [2, 5, 4] := by decide
/-- ME15. -/
theorem test_ldB_range : faultOf (run { sc with i := 0xFFD } 0xF033) = some (.memRange, some 0xFFF) := by decide
/-- ME16. -/
theorem test_ldMiVx : bytesOf (run (regs { vp with i := 0x300 } [(0, 0x11), (1, 0x22), (2, 0x33), (3, 0x44)]) 0xF355) 0x300 4 =
    some [0x11, 0x22, 0x33, 0x44] ∧ iOf (run { vp with i := 0x300 } 0xF355) = some 0x304 := by decide
/-- ME20. -/
theorem test_ldMiVx_range : faultOf (run { vp with i := 0xE91 } 0xFF55) = some (.memRange, some 0xEA0) := by decide
/-- ME22. -/
theorem test_ldVxMi : regOf (run { vp with i := 0x300, mem := [(0x300, 1), (0x301, 2), (0x302, 3)] } 0xF265) 2 = some 3 ∧
    iOf (run { vp with i := 0x300 } 0xF265) = some 0x303 := by decide
/-- ME21. -/
theorem test_ldVxMi_font : faultOf (run sc 0xF065) = some (.memRange, some 0) := by decide
/-- TI4. -/
theorem test_ldVxDt : regOf (run { sc with dt := .running 60 1000, now := 1000 + 59 * 16667 + 16666 } 0xF207) 2 =
    some 1 := by decide
/-- TI5. -/
theorem test_ldVxDt_idle : of (run { sc with dt := .running 60 1000, now := 1000 + 60 * 16667 } 0xF207) none
    (fun t => some (t.reg 2, t.dt)) = some (0, .idle) := by decide
/-- TI1. -/
theorem test_ldDtVx : of (run (regs { sc with now := 1000 } [(1, 60)]) 0xF115) none (fun t => some t.dt) =
    some (.running 60 1000) := by decide
/-- TI7. -/
theorem test_ldDtVx_zero : of (run { sc with dt := .running 5 0 } 0xF115) none (fun t => some t.dt) = some .idle := by decide
/-- TI8. -/
theorem test_ldStVx : of (run (regs sc [(1, 2)]) 0xF118) none (fun t => some t.st) = some (.running 2 0) := by decide
/-- KY1. -/
theorem test_skp : of (run (regs { sc with down := keys [5] } [(0, 5)]) 0xE09E) none (fun t => some (t.pc, t.hints)) =
    some (0x202, keys [5]) := by decide
/-- KY5. -/
theorem test_skp_operand : faultOf (run (regs sc [(0, 0x10)]) 0xE09E) = some (.operand, none) := by decide
/-- KY4, KY3. -/
theorem test_sknp : pcOf (run (regs { sc with down := keys [5, 6] } [(0, 5)]) 0xE0A1) = some 0x200 ∧
    pcOf (run (regs sc [(0, 5)]) 0xE0A1) = some 0x202 := by decide
/-- KY9. -/
theorem test_ldVxK : of (run { sc with armed := true, down := keys [3] } 0xF30A) none
    (fun t => some (t.reg 3, t.armed, t.pc)) = some (3, false, 0x200) := by decide
/-- KY7, and its rewind (R142). -/
theorem test_ldVxK_wait : of (run sc 0xF30A) none (fun t => some (t.armed, t.pc)) = some (true, 0x1FE) := by decide

/-! ## Display and SUPER-CHIP (95_test_vectors.md 2.6, 2.7) -/

/-- A set pixel is unset. -/
theorem test_cls : pixelOf (run { sc with fb := toggle sc.fb 5 5 } 0x00E0) 5 5 = some false := by decide
/-- DI4: two columns wrap to the left edge. -/
theorem test_drw_wrap : pixelOf (run (regs { State.powerOn { Config.default with spriteMode := .wrap } with
      i := 0x300, mem := [(0x300, 0xFF)] } [(0, 0x3E)]) 0xD011) 5 0 = some true := by decide
/-- DI8. -/
theorem test_drw_collision : of (run { sc with fb := toggle sc.fb 0 0, i := 0x300, mem := [(0x300, 0xC0)] } 0xD011) none
    (fun t => some (pixel t.fb 0 0, pixel t.fb 1 0, t.reg VF)) = some (false, true, 1) := by decide
/-- R282 under Vip. -/
theorem test_drw16_vip : faultOf (run vp 0xD010) = some (.profile, none) := by decide
/-- A hi-res row is two bytes, the left one first (R80, R282). -/
theorem test_drw16_hires : pixelOf (run { sc with hires := true, i := 0x300, mem := [(0x301, 0x01)] } 0xD010) 15 0 =
    some true := by decide
/-- SC1. -/
theorem test_scd : pixelOf (run { sc with fb := toggle sc.fb 5 0 } 0x00C3) 5 3 = some true := by decide
/-- SC2. -/
theorem test_scd_zero : faultOf (run sc 0x00C0) = some (.operand, none) := by decide
/-- SC5. -/
theorem test_scr : pixelOf (run { sc with fb := toggle sc.fb 0 0 } 0x00FB) 4 0 = some true := by decide
/-- SC6. -/
theorem test_scl : pixelOf (run { sc with fb := toggle sc.fb 4 0 } 0x00FC) 0 0 = some true := by decide
/-- SC8. -/
theorem test_exit : of (run sc 0x00FD) none (fun t => some (t.halted, t.pc, t.result)) =
    some (true, 0x200, some ⟨false, true⟩) := by decide
/-- SC11. -/
theorem test_low : pixelOf (run { sc with fb := toggle sc.fb 3 3 } 0x00FE) 3 3 = some false := by decide
/-- SC12. -/
theorem test_high_vip : of (run vp 0x00FF) none (fun t => some (t.hires, t.cfg.effW t.hires, t.result)) =
    some (true, 64, some ⟨true, false⟩) := by decide
/-- SC15, SC16. -/
theorem test_ldHf : iOf (run (regs sc [(0, 0xF)]) 0xF030) = some 0x0E6 ∧
    faultOf (run (regs sc [(0, 0x10)]) 0xF030) = some (.operand, none) := by decide
/-- SC17. -/
theorem test_ldRVx : of (run (regs sc [(0, 1), (1, 2), (2, 3)]) 0xF275) none (fun t => some (t.rplUpTo 3)) =
    some [1, 2, 3, 0] := by decide
/-- SC18, SC19. -/
theorem test_ldVxR : regOf (run { sc with rpl := (sc.rpl.set 0 9).set 1 8 } 0xF185) 1 = some 8 ∧
    faultOf (run sc 0xF885) = some (.operand, none) := by decide

/-! ## CHIP-8E (95_test_vectors.md 2.8), as applied to operands -/

/-- CE2. -/
theorem test_c8eSks : pcOf (run (regs (ce c8e) [(1, 1), (2, 0xFF)]) 0x5121) = some 0x202 := by decide
/-- CE3. -/
theorem test_c8eSks_not : pcOf (run (regs (ce c8e) [(1, 0xFF), (2, 1)]) 0x5121) = some 0x200 := by decide
/-- CE4. -/
theorem test_c8eMul_high : regOf (run (regs (ce c8e) [(0, 0x20), (1, 0x10)]) 0x5012) VF = some 2 := by decide
/-- CE5. -/
theorem test_c8eMul_low : regOf (run (regs (ce { c8e with mulVfHalf := .low }) [(0, 0x20), (1, 0x10)]) 0x5012) 0 =
    some 2 := by decide
/-- CE7, CE8. -/
theorem test_c8eDiv : regOf (run (regs (ce c8e) [(0, 0x11), (1, 5)]) 0x5013) 0 = some 3 ∧
    regOf (run (regs (ce { c8e with divResult := .remQuot }) [(0, 0x11), (1, 5)]) 0x5013) 0 = some 2 := by decide
/-- CE9. -/
theorem test_c8eDiv_zero : faultOf (run (regs (ce c8e) [(0, 0x11)]) 0x5013) = some (.divZero, none) := by decide
/-- CE10. -/
theorem test_c8eBcd16 : bytesOf (run (regs { ce c8e with i := 0x300 } [(0, 0x30), (1, 0x39)]) 0x5014) 0x300 5 =
    some [1, 2, 3, 4, 5] := by decide
/-- The scratch region becomes the target of `I` (R337). -/
theorem test_c8eAscii : iOf (run (regs (ce c8e) [(0, 63)]) 0x5015) = some 0x1F8 := by decide
/-- CE14. -/
theorem test_c8eAscii_operand : faultOf (run (regs (ce c8e) [(0, 64)]) 0x5015) = some (.operand, none) := by decide
/-- The reading of the sixth operation that the spec calls likely (R338): −1 < 1. -/
theorem test_c8eOp6 : pcOf (run (regs (ce c8e) [(1, 0xFF), (2, 1)]) 0x9121) = some 0x202 := by decide

/-! ## Fetch, faults, construction and load (95_test_vectors.md 1.1, 2.9) -/

/-- FD1. -/
theorem test_no_program : faultOf (step State.reset) = some (.fetchRange, none) := by decide
/-- 1.1: the loaded image is fetched at 0x200. -/
theorem test_load_and_step : regOf (step { sc with inputs := [[.load [0x6A, 0x05, 0x00, 0x00]]] }) 0xA = some 5 := by decide
/-- FD4: the record of an illegal word. -/
theorem test_decode_fault : of (run sc 0x5121) none (fun t => t.fault) = some ⟨.decode, 0x200, some 0x5121, none⟩ := by decide
/-- FD10, FD11, FD14, as lengths. -/
theorem test_load_fail : sc.hostAction (.load []) = sc ∧ sc.hostAction .reload = sc ∧ Config.default.memSize - 0x200 = 3583 := by
  decide
/-- FD16. -/
theorem test_config : State.construct { Config.default with soundThreshold := 0 } = .error .soundThreshold := by decide
/-- The fonts (R56, R57): the first and last glyph of the low font and the last glyph of the high one. -/
theorem test_fonts : sc.bytes 0 5 = [0xF0, 0x90, 0x90, 0x90, 0xF0] ∧ sc.bytes 0x04B 5 = [0xF0, 0x80, 0xF0, 0x80, 0x80] ∧
    sc.bytes 0x0AA 11 = [0x3C, 0x7E, 0xC3, 0xC3, 0x7F, 0x3F, 0x03, 0x03, 0x3E, 0x7C, 0] := by decide

/-! ## Witnesses: the hypotheses of each statement are met together, each clause at the ends of its range -/

/-- The state after an instruction. -/
def after (i : Instr) (s : State) : State := of (exec i s) s id

/-- Rows that match `o`, four bits of `n`, and leave `x` and `y` free: the two nibbles of a word they match. -/
theorem nibbles_of_matches (w pat : Word) (h : (C8ERow.mk pat 0xF00F).matches w = true) :
    w.extractLsb' 12 4 = pat.extractLsb' 12 4 ∧ w.extractLsb' 0 4 = pat.extractLsb' 0 4 := by
  have h : w &&& 0xF00F#16 = pat := by simpa [C8ERow.matches] using h
  subst h
  have h1 : (0xF00F#16).extractLsb' 12 4 = BitVec.allOnes 4 := by decide
  have h2 : (0xF00F#16).extractLsb' 0 4 = BitVec.allOnes 4 := by decide
  simp only [BitVec.extractLsb'_and, h1, h2, BitVec.and_allOnes, and_self]

/-- A 5XYn row with `n ≠ 0`, or the 9XY1 row, lies inside the illegal set. -/
theorem illegal_of_nibbles (w : Word) (h : w.extractLsb' 0 4 ≠ 0#4)
    (ho : w.extractLsb' 12 4 = 5#4 ∨ w.extractLsb' 12 4 = 9#4) : ∃ e, decodeBase w = .error e := by
  unfold decodeBase
  rcases ho with ho | ho <;> simp [ho, h]

theorem c8e_encodingsValid : c8e.EncodingsValid where
  inIllegalSet := by
    intro r hr w hw
    simp only [C8E.rows, c8e, Option.map_some, Option.toList_some, List.cons_append, List.nil_append, List.mem_cons,
      List.not_mem_nil, or_false] at hr
    rcases hr with rfl | rfl | rfl | rfl | rfl | rfl <;> obtain ⟨h1, h2⟩ := nibbles_of_matches _ _ hw <;>
      exact illegal_of_nibbles w (by rw [h2]; decide) (by rw [h1]; decide)
  disjoint := by
    have key : ∀ p q : Word, p ≠ q → (C8ERow.mk p 0xF00F).Disjoint (C8ERow.mk q 0xF00F) := by
      intro p q hne w ⟨h1, h2⟩
      simp only [C8ERow.matches, beq_iff_eq] at h1 h2
      exact hne (h1 ▸ h2)
    simp only [C8E.rows, c8e, Option.map_some, Option.toList_some, List.cons_append, List.nil_append, List.pairwise_cons,
      List.mem_cons, List.not_mem_nil, or_false, forall_eq_or_imp, forall_eq, List.Pairwise.nil, and_true, false_imp_iff,
      implies_true]
    refine ⟨⟨?_, ?_, ?_, ?_, ?_⟩, ⟨?_, ?_, ?_, ?_⟩, ⟨?_, ?_, ?_⟩, ⟨?_, ?_⟩, ?_⟩ <;> exact key _ _ (by decide)
  freeXY := by simp only [C8ERow.LeavesFree]; decide
  freeX := by simp only [C8ERow.LeavesFree]; decide

theorem default_valid : Config.default.Valid :=
  { validated := by decide, layout := by decide, encodings := fun _ h => by cases h }

theorem c8e_valid : (ce c8e).cfg.Valid :=
  { validated := by decide, layout := by decide, encodings := fun _ h => by cases h; exact c8e_encodingsValid }

theorem gridSized_powerOn (c : Config) : (State.powerOn c).GridSized := sized_blankGrid c.backW c.backH

/-- Construction gives the invariant on the default machine and on one with CHIP-8E (R500). -/
theorem reset_inv : State.reset.Inv where
  cfg := default_valid
  mem := by decide
  sp := by decide
  progLo := by decide
  progHi := by decide
  image := by decide
  grid := sized_blankGrid 128 64
  dt := trivial
  st := trivial
  fault := fun _ h => by cases h
  halted := fun _ h => by cases h

theorem c8e_inv : ((regs (ce c8e) [(0, 63)]).withFetchWord 16 0x5015).Inv where
  cfg := c8e_valid
  mem := by decide
  sp := by decide
  progLo := by decide
  progHi := by decide
  image := by decide
  grid := sized_blankGrid 128 64
  dt := trivial
  st := trivial
  fault := fun _ h => by cases h
  halted := fun _ h => by cases h

theorem witness_encodeThenDecode : (∀ p, (ce c8e).cfg.c8e = some p → p.EncodingsValid) ∧
    (Instr.c8eOp6 0xF 0).wellFormed (ce c8e).cfg = true ∧ (Instr.drw 0xF 0xF 0xF).wellFormed (ce c8e).cfg = true :=
  ⟨c8e_valid.encodings, by decide, by decide⟩

theorem witness_decodedInstruction : decode (ce c8e).cfg 0x0000 = .ok (.sys 0) ∧ decodeBase 0x0000 = .ok (.sys 0) ∧
    decode (ce c8e).cfg 0x9FF1 = .ok (.c8eOp6 0xF 0xF) ∧ decodeBase 0x9FF1 = .error .illegal9XYn ∧
    (∀ p, (ce c8e).cfg.c8e = some p → ∀ r ∈ p.rows, r.mask &&& 0xF00F#16 = 0xF00F#16) :=
  ⟨by decide, by decide, by decide, by decide, fun _ h => by cases h; decide⟩

/-- The states of the cycle's statements: the first and the last program address that can be fetched. -/
def top : State := { sc with pc := 0xFFA, progEnd := 0xFFF, mem := [(0xFFC, 0x6A), (0xFFD, 0x05)] }

theorem witness_stepRuns : (sc.withFetchWord 16 0x6A05).takeInputs.Ready ∧
    (sc.withFetchWord 16 0x6A05).takeInputs = sc.withFetchWord 16 0x6A05 ∧ (sc.withFetchWord 16 0x6A05).pc + 2 = 0x200#12 ∧
    (sc.withFetchWord 16 0x6A05).progEnd = 0x202 ∧
    decode Config.default ((sc.withFetchWord 16 0x6A05).byte 0x200 ++ (sc.withFetchWord 16 0x6A05).byte 0x201) =
      .ok (.ldVxNn 0xA 5) ∧
    top.takeInputs.Ready ∧ top.takeInputs = top ∧ top.pc + 2 = 0xFFC#12 ∧
    decode Config.default (top.byte 0xFFC ++ top.byte 0xFFD) = .ok (.ldVxNn 0xA 5) := by
  simp only [State.Ready]; decide

/-- An odd address, one below 0x200, one past the program, and one inside it. -/
theorem witness_fetchOutside : ({ sc with pc := 0x1FF, progEnd := 0x300 } : State).takeInputs.Ready ∧
    (0x1FF#12 + 2#12).toNat % 2 ≠ 0 ∧ (0x1FC#12 + 2#12).toNat < 0x200 ∧ sc.takeInputs.Ready ∧
    (sc.pc + 2#12).toNat + 2 > sc.progEnd ∧ ¬ (top.pc + 2#12).toNat + 2 > top.progEnd := by
  simp only [State.Ready]; decide

theorem witness_illegalWord : (sc.withFetchWord 16 0xFFFF).takeInputs.Ready ∧
    ((sc.withFetchWord 16 0xFFFF).pc + 2#12).toNat = 0x200 ∧ (sc.withFetchWord 16 0xFFFF).progEnd = 0x202 ∧
    (sc.withFetchWord 16 0xFFFF).byte 0x200 ++ (sc.withFetchWord 16 0xFFFF).byte 0x201 = 0xFFFF#16 ∧
    decode Config.default 0xFFFF = .error .illegalFXnn := by
  simp only [State.Ready]; decide

/-- A faulted state, a halted one, and the two ways out. -/
def faulted : State := { after .ret sc with image := [0x6A, 0x05] }
theorem witness_faultedOrHalted : faulted.takeInputs.fault ≠ none ∧ ({ sc with halted := true } : State).takeInputs.fault = none ∧
    ({ sc with halted := true } : State).takeInputs.halted = true ∧ ¬ faulted.Ready ∧
    (faulted.hostAction .reload).Ready ∧
    (faulted.hostAction (.load [0x6A, 0x05])).Ready := by
  simp only [State.Ready]; decide

theorem witness_stepResult : (∃ t, run sc 0x6A05 = .next t ∧ t.fault = none) ∧ (stepResult vp.cfg .cls).needsSync = true ∧
    (stepResult vp.cfg (.ldVxK 0xF)).needsSync = true ∧ (stepResult sc.cfg .exit).exitRequested = true :=
  ⟨⟨_, rfl, by decide⟩, by decide, by decide, by decide⟩

theorem witness_faultingInstruction : (∃ t, exec .ret sc = .next t ∧ sc.fault = none ∧ t.fault ≠ none) ∧
    ∃ t, exec (.ldB 0) sc = .next t ∧ sc.fault = none ∧ t.fault ≠ none :=
  ⟨⟨_, rfl, by decide, by decide⟩, ⟨_, rfl, by decide, by decide⟩⟩

/-- A step that faults at the fetch, at the decoding, and in the instruction, with and without an address. -/
theorem witness_faultingStep : (∃ t, step sc = .next t ∧ t.fault ≠ none) ∧ (∃ t, run sc 0x5121 = .next t ∧ t.fault ≠ none) ∧
    (∃ t, run sc 0x00EE = .next t ∧ t.fault ≠ none) ∧ ∃ t, run sc 0xF033 = .next t ∧ t.fault ≠ none :=
  ⟨⟨_, rfl, by decide⟩, ⟨_, rfl, by decide⟩, ⟨_, rfl, by decide⟩, ⟨_, rfl, by decide⟩⟩

theorem witness_invariantKept : ∃ s t : State, s.Inv ∧ step s = .next t ∧ t.fault = none :=
  ⟨_, _, c8e_inv, rfl, by decide⟩

theorem witness_invariantAtPowerOn : Config.default.Valid ∧ (ce c8e).cfg.Valid := ⟨default_valid, c8e_valid⟩

/-- An instruction that writes each piece of state of the table. -/
theorem witness_instructionsWrite : (after (.ldI 5) sc).i ≠ sc.i ∧ (after (.jp 5) sc).pc ≠ sc.pc ∧
    (after (.call 5) sc).sp ≠ sc.sp ∧ (after (.call 5) sc).stack ≠ sc.stack ∧
    (after (.ldRVx 7) (regs sc [(7, 1)])).rpl ≠ sc.rpl ∧ (after (.ldDtVx 0) (regs sc [(0, 1)])).dt ≠ sc.dt ∧
    (after (.ldStVx 0) (regs sc [(0, 1)])).st ≠ sc.st ∧ (after .high sc).hires ≠ sc.hires ∧
    (after (.ldVxK 0) sc).armed ≠ sc.armed ∧ (after (.skp 0) sc).hints ≠ sc.hints ∧ (after .exit sc).halted ≠ sc.halted ∧
    (after (.ldMiVx 0) (regs { sc with i := 0x300 } [(0, 1)])).byte 0x300 ≠ sc.byte 0x300 ∧
    pixel (after .scr { sc with fb := toggle sc.fb 0 0 }).fb 4 0 ≠ pixel (toggle sc.fb 0 0) 4 0 ∧
    (after (.ldVxNn 0xF 5) sc).reg 0xF ≠ sc.reg 0xF ∧ (after (.ldVxMi 1) { sc with i := 0x300, mem := [(0x301, 9)] }).reg 1 ≠ sc.reg 1 ∧
    (after (.addVxVy 0 1) (regs sc [(0, 0xFF), (1, 2)])).reg VF ≠ (regs sc [(0, 0xFF), (1, 2)]).reg VF ∧
    (after .ret sc).fault ≠ sc.fault ∧ (after .cls sc).draws ≠ sc.draws ∧ (after (.rnd 0 0) sc).draws ≠ sc.draws := by decide

theorem witness_flagRegister : (after (.addVxVy 0 1) (regs sc [(0, 0xFF), (1, 2)])).reg VF ≠ (regs sc [(0, 0xFF), (1, 2)]).reg VF ∧
    (after (.or 0 1) (regs vp [(VF, 5)])).reg VF ≠ (regs vp [(VF, 5)]).reg VF ∧
    (after (.ldVxNn VF 5) sc).reg VF ≠ sc.reg VF := by decide

theorem witness_bytesBelow : ∃ s t : State, s.Inv ∧ step s = .next t ∧
    (∀ p, s.cfg.c8e = some p → ¬ (p.asciiScratch ≤ 0x1F7 ∧ 0x1F7 < p.asciiScratch + p.asciiRows)) :=
  ⟨_, _, c8e_inv, rfl, fun _ h => by cases h; decide⟩

theorem witness_bytesBelow_instruction : ∃ t, exec (.ldI 5) State.reset = .next t ∧ State.reset.Inv ∧
    ¬ ∃ x y, Instr.ldI 5 = .c8eAscii x y := ⟨_, rfl, reset_inv, by simp⟩

theorem witness_hints : (∃ t, run sc 0xE09E = .next t) ∧ step { sc with halted := true } = .fault .stepWhileHalted :=
  ⟨⟨_, rfl⟩, rfl⟩

theorem witness_soundTimer : (∃ t, run sc 0xF018 = .next t) ∧ step faulted = .fault .stepWhileFaulted :=
  ⟨⟨_, rfl⟩, rfl⟩

theorem witness_sys : (0x0E1#12 ∉ [0x0E0#12, 0x0EE#12, 0x0FB#12, 0x0FC#12, 0x0FD#12, 0x0FE#12, 0x0FF#12] ∧
    (0x0E1#12).extractLsb' 4 8 ≠ 0x0C#8) := by decide

theorem witness_jumps : vp.cfg.profile = .vip ∧ sc.cfg.profile = .sChip := by decide

theorem witness_call : sc.sp < sc.cfg.stackMax ∧ ({ sc with sp := 15 } : State).sp < sc.cfg.stackMax ∧
    ({ sc with sp := 16 } : State).sp = sc.cfg.stackMax ∧ ({ vp with sp := 12 } : State).sp = vp.cfg.stackMax := by decide

theorem witness_return : (0 < ({ sc with sp := 1 } : State).sp ∧ ({ sc with sp := 1 } : State).sp ≤ sc.cfg.stackMax) ∧
    (0 < ({ sc with sp := 16 } : State).sp ∧ ({ sc with sp := 16 } : State).sp ≤ sc.cfg.stackMax) ∧ sc.sp = 0 := by decide

/-- The subroutine has moved `pc` and written a register. -/
theorem witness_callThenReturn : ∃ t u : State, sc.sp < sc.cfg.stackMax ∧ exec (.call 0x300) sc = .next t ∧ u.sp = t.sp ∧
    u.stack = t.stack ∧ u.cfg = t.cfg ∧ u.pc ≠ t.pc ∧ u.v ≠ t.v :=
  ⟨_, regs { after (.call 0x300) sc with pc := 0x310 } [(3, 7)], by decide, rfl, by decide, by decide, by decide, by decide,
    by decide⟩

theorem witness_shifts : (3#8 = if vp.cfg.profile = .vip then (regs vp [(0, 0x81), (1, 3)]).reg 1
      else (regs vp [(0, 0x81), (1, 3)]).reg 0) ∧
    0x81#8 = if sc.cfg.profile = .vip then (regs sc [(0, 0x81), (1, 3)]).reg 1
      else (regs sc [(0, 0x81), (1, 3)]).reg 0 := by decide

theorem witness_fontLookups : ((regs sc [(0, 15)]).reg 0).toNat ≤ 15 ∧ ((regs sc [(0, 16)]).reg 0).toNat > 15 := by decide

/-- The first and the last address that a BCD store may use, and the ones outside. -/
theorem witness_bcdStore : Memory.wf sc.cfg.memSize sc.cfg.initByte sc.mem ∧
    (0x200 ≤ (0x200#12).toNat ∧ (0x200#12).toNat + 2 < sc.cfg.memSize) ∧
    (0x200 ≤ (0xFFC#12).toNat ∧ (0xFFC#12).toNat + 2 < sc.cfg.memSize) ∧
    ¬ (0x200 ≤ (0x1FF#12).toNat ∧ (0x1FF#12).toNat + 2 < sc.cfg.memSize) ∧
    ¬ (0x200 ≤ (0xFFD#12).toNat ∧ (0xFFD#12).toNat + 2 < sc.cfg.memSize) := by decide

/-- The same for one and for sixteen registers; the load has the same hypotheses. -/
theorem witness_bulkTransfers : Memory.wf vp.cfg.memSize vp.cfg.initByte vp.mem ∧
    (0x200 ≤ (0x200#12).toNat ∧ (0x200#12).toNat + (0x0#4).toNat < vp.cfg.memSize) ∧
    (0x200 ≤ (0xE90#12).toNat ∧ (0xE90#12).toNat + (0xF#4).toNat < vp.cfg.memSize) ∧
    ¬ (0x200 ≤ (0x1FF#12).toNat ∧ (0x1FF#12).toNat + (0x0#4).toNat < vp.cfg.memSize) ∧
    ¬ (0x200 ≤ (0xE91#12).toNat ∧ (0xE91#12).toNat + (0xF#4).toNat < vp.cfg.memSize) ∧
    vp.cfg.profile = .vip ∧ sc.cfg.profile = .sChip := by decide

/-- FX55 stores `LD VA, 5` over the word the next step fetches. -/
def storing : State := regs { sc with i := 0x200, progEnd := 0x202 } [(0, 0x6A), (1, 5)]
theorem witness_storedInstruction : ∃ t : State, Memory.wf storing.cfg.memSize storing.cfg.initByte storing.mem ∧
    1 ≤ (1#4).toNat ∧ 0x200 ≤ storing.i.toNat ∧ storing.i.toNat + (1#4).toNat < storing.cfg.memSize ∧
    exec (.ldMiVx 1) storing = .next t ∧ State.Ready { t with pc := storing.i - 2#12, inputs := [] } ∧
    storing.i.toNat % 2 = 0 ∧ storing.i.toNat + 2 ≤ t.progEnd ∧
    decode storing.cfg (storing.reg 0#4 ++ storing.reg 1#4) = .ok (.ldVxNn 0xA 5) :=
  ⟨_, by decide, by decide, by decide, by decide, rfl, ⟨rfl, rfl⟩, by decide, by decide, by decide⟩

theorem witness_timers : sc.dt = .idle ∧ ({ sc with dt := .running 1 0 } : State).dt = .running 1 0 ∧
    (regs sc [(0, 1)]).reg 0 ≠ 0#8 := by decide

theorem witness_timerCountsDown : 1 ≤ 1 ∧ (255#8 ≠ 0#8) ∧ 0 ≤ 1 := by decide

theorem witness_keySkips : (∃ k : Nibble, k.toNat = ((regs sc [(0, 15)]).reg 0).toNat) ∧
    ((regs sc [(0, 16)]).reg 0).toNat > 15 := ⟨⟨15, by decide⟩, by decide⟩

/-- One key on an armed detector, no key, one key on an unarmed detector, and two keys. -/
theorem witness_keyWait : (∀ j, (keys [15]).has j = true ↔ j = 15#4) ∧ (∀ j, KeySet.empty.has j = false) ∧
    (∃ j, (keys [0]).has j = true) ∧ sc.armed = false ∧
    ∃ j k : Nibble, j ≠ k ∧ (keys [3, 4]).has j = true ∧ (keys [3, 4]).has k = true :=
  ⟨by decide, by decide, ⟨0, by decide⟩, by decide, ⟨3, 4, by decide⟩⟩

/-- Sprites whose last byte is the last byte of memory, and one byte further. -/
theorem witness_draw : (1#4 ≠ 0#4 ∧ sc.GridSized ∧ (0xFFE#12).toNat + (1#4).toNat ≤ sc.cfg.memSize) ∧
    (0xFFF#12).toNat + (1#4).toNat > sc.cfg.memSize :=
  ⟨⟨by decide, gridSized_powerOn _, by decide⟩, by decide⟩

theorem witness_tallDraw : vp.cfg.profile = .vip ∧
    (sc.cfg.profile = .sChip ∧ ({ sc with hires := true } : State).GridSized ∧ (0xFDF#12).toNat + 32 ≤ sc.cfg.memSize) ∧
    (sc.cfg.profile = .sChip ∧ sc.GridSized ∧ sc.hires = false ∧ (0xFEF#12).toNat + 16 ≤ sc.cfg.memSize) ∧
    (0xFE0#12).toNat + 32 > sc.cfg.memSize ∧ (0xFF0#12).toNat + 16 > sc.cfg.memSize :=
  ⟨by decide, ⟨by decide, gridSized_powerOn Config.default, by decide⟩,
    ⟨by decide, gridSized_powerOn _, by decide, by decide⟩, by decide, by decide⟩

theorem witness_drawingTwice : sc.GridSized ∧ vp.GridSized ∧ (List.replicate 16 0xFFFF).length ≤ 16 ∧ 16 ≤ 16 :=
  ⟨gridSized_powerOn _, gridSized_powerOn _, by decide, by decide⟩

theorem witness_scrolls : 1#4 ≠ 0#4 ∧ 15#4 ≠ 0#4 ∧ 0#4 = 0#4 ∧ 0 < sc.cfg.backW ∧ 63 < sc.cfg.backH := by decide

theorem witness_scrollDownThenUp : (1 ≤ 1 ∧ 1 ≤ 15) ∧ (1 ≤ 15 ∧ 15 ≤ 15) ∧ 127 < sc.cfg.backW ∧ 63 < sc.cfg.backH := by decide

theorem witness_resolution : sc.cfg.profile = .sChip ∧ vp.cfg.profile = .vip := by decide

theorem witness_exit : ∃ t, run sc 0x00FD = .next t ∧ t.halted = true ∧ t.inputs = [] := ⟨_, rfl, by decide, by decide⟩

theorem witness_rpl : (7#4).toNat ≤ 7 ∧ (8#4).toNat > 7 := by decide

/-- Each relation, half and order is one a machine may have. -/
theorem witness_c8e : (ce c8e).cfg.c8e = some c8e ∧ c8e.skipRel = .gt ∧ (ce { c8e with skipRel := .lt }).cfg.c8e ≠ none ∧
    (ce { c8e with skipRel := .le }).cfg.c8e ≠ none ∧ (ce { c8e with skipRel := .ge }).cfg.c8e ≠ none ∧
    c8e.mulVfHalf = .high ∧ ({ c8e with mulVfHalf := .low } : C8E).mulVfHalf = .low := by decide

theorem witness_c8eDivide : (regs (ce c8e) [(1, 1)]).reg 1 ≠ 0#8 ∧ (ce c8e).reg 1 = 0#8 ∧ c8e.divResult = .quotRem ∧
    ({ c8e with divResult := .remQuot } : C8E).divResult = .remQuot := by decide

theorem witness_c8eBcd : Memory.wf (ce c8e).cfg.memSize (ce c8e).cfg.initByte (ce c8e).mem ∧
    (0x200 ≤ (0x200#12).toNat ∧ (0x200#12).toNat + 4 < (ce c8e).cfg.memSize) ∧
    (0x200 ≤ (0xFFA#12).toNat ∧ (0xFFA#12).toNat + 4 < (ce c8e).cfg.memSize) ∧
    ¬ (0x200 ≤ (0x1FF#12).toNat ∧ (0x1FF#12).toNat + 4 < (ce c8e).cfg.memSize) ∧
    ¬ (0x200 ≤ (0xFFB#12).toNat ∧ (0xFFB#12).toNat + 4 < (ce c8e).cfg.memSize) ∧ c8e.bcdSource = .vxVy ∧
    ({ c8e with bcdSource := .vyVx } : C8E).bcdSource = .vyVx ∧
    (({ c8e with bcdSource := .vxNext } : C8E).bcdSource = .vxNext ∧ (14#4).toNat ≤ 14) := by decide

theorem witness_c8eAscii : Memory.wf (ce c8e).cfg.memSize (ce c8e).cfg.initByte (ce c8e).mem ∧
    ((regs (ce c8e) [(0, 63)]).reg 0).toNat ≤ 63 ∧ ((regs (ce c8e) [(0, 64)]).reg 0).toNat > 63 ∧
    c8e.asciiResult = .nothing := by decide

theorem witness_c8eOp6 : (∃ op, c8e.op6 = some op ∧ op.meaning = .signedSkip .lt) ∧
    (∃ op, ({ c8e with op6 := some ⟨⟨0x9001, 0xF00F⟩, .other⟩ } : C8E).op6 = some op ∧ op.meaning = .other) ∧
    ({ c8e with op6 := none } : C8E).op6 = none := ⟨⟨_, rfl, by decide⟩, ⟨_, rfl, by decide⟩, rfl⟩

theorem witness_c8eDisabled : Config.default.c8e = none ∧ Config.default.layoutValid = true ∧
    decode Config.default 0x00E0 = .ok .cls ∧ decodeBase 0x5AB1 = .error .illegal5XYn ∧
    (0x0F0 < Config.default.fontLoBase ∨ Config.default.fontLoBase + 80 ≤ 0x0F0) ∧
    (0x0F0 < Config.default.fontHiBase ∨ Config.default.fontHiBase + 160 ≤ 0x0F0) := by decide

theorem witness_construction : Config.default.layoutValid = true ∧
    (1 ≤ Config.default.soundThreshold ∧ Config.default.soundThreshold ≤ 255) ∧
    ({ Config.default with soundThreshold := 0 } : Config).layoutValid = true ∧
    ({ Config.default with soundThreshold := 256 } : Config).layoutValid = true := by decide

/-- Construction with and without CHIP-8E: both machines have a byte outside the fonts and the tables. -/
theorem witness_construction_tables : Config.default.c8e = none ∧ (ce c8e).cfg.layoutValid = true ∧ (ce c8e).cfg.c8e = some c8e ∧
    1 ≤ (ce c8e).cfg.soundThreshold ∧ (ce c8e).cfg.soundThreshold ≤ 255 ∧ 0 < c8e.asciiPatterns.length ∧ 0 < c8e.asciiIndex.length ∧
    (∀ c ∈ [Config.default, (ce c8e).cfg], c.fontLoBase + 80 ≤ 0x0F2 ∧ c.fontHiBase + 160 ≤ 0x0F2) ∧
    c8e.asciiPatBase + c8e.asciiPatterns.length ≤ 0x0F2 ∧ 0x0F2 < c8e.asciiIdxBase := by decide

/-- The bytes of an enabled machine at construction: the last slots of the high font, the two tables, and 0 beside them (R500). -/
theorem test_construction_c8e : (ce c8e).bytes 0x0EF 6 = [0x5A, 1, 2, 0, 0, 3] := by decide

/-- An empty image, one byte too many, and the shortest and the longest image. -/
theorem witness_load : ([] : List Byte).length = 0 ∧
    ((List.replicate 3584 (0 : Byte)).length ≠ 0 ∧ 0x200 + (List.replicate 3584 (0 : Byte)).length > sc.cfg.memSize) ∧
    ([0] : List Byte).length ≠ 0 ∧ 0x200 + ([0] : List Byte).length ≤ sc.cfg.memSize ∧
    (List.replicate 3583 (0 : Byte)).length ≠ 0 ∧ 0x200 + (List.replicate 3583 (0 : Byte)).length ≤ sc.cfg.memSize ∧
    sc.image.length = 0 := by
  simp only [List.length_replicate]
  decide

end Sys2Proof.Tests
end

section
/-! PROOF. The pieces of state, and for each named update the pieces it writes: every other piece is the same before and after it. -/

namespace Sys2Proof.Machine

/-! ## The pieces of state -/

/-- A piece of the state: one general register, or one of the other fields of `State` (R30 to R47). -/
inductive Field
  | reg (z : Reg)
  | i | pc | sp | stack | rpl | dt | st | mem | progEnd | image | fb | hires | down | armed | hints | halted | fault | cfg
  | now | inputs | result | draws

/-- The piece of state is the same in both states. -/
def Field.Same : Field → State → State → Prop
  | .reg z, s, t => t.reg z = s.reg z
  | .i, s, t => t.i = s.i
  | .pc, s, t => t.pc = s.pc
  | .sp, s, t => t.sp = s.sp
  | .stack, s, t => t.stack = s.stack
  | .rpl, s, t => t.rpl = s.rpl
  | .dt, s, t => t.dt = s.dt
  | .st, s, t => t.st = s.st
  | .mem, s, t => t.mem = s.mem
  | .progEnd, s, t => t.progEnd = s.progEnd
  | .image, s, t => t.image = s.image
  | .fb, s, t => t.fb = s.fb
  | .hires, s, t => t.hires = s.hires
  | .down, s, t => t.down = s.down
  | .armed, s, t => t.armed = s.armed
  | .hints, s, t => t.hints = s.hints
  | .halted, s, t => t.halted = s.halted
  | .fault, s, t => t.fault = s.fault
  | .cfg, s, t => t.cfg = s.cfg
  | .now, s, t => t.now = s.now
  | .inputs, s, t => t.inputs = s.inputs
  | .result, s, t => t.result = s.result
  | .draws, s, t => t.draws = s.draws

theorem Field.Same.refl (f : Field) (s : State) : f.Same s s := by cases f <;> rfl

theorem Field.Same.trans {f : Field} {s t u : State} (h : f.Same s t) (h' : f.Same t u) : f.Same s u := by
  cases f <;> exact Eq.trans h' h

/-- Between the two states only pieces in `fs` differ. -/
def SameBut (fs : Set Field) (s t : State) : Prop := ∀ f, f ∉ fs → f.Same s t

theorem SameBut.refl (fs : Set Field) (s : State) : SameBut fs s s := fun f _ => Field.Same.refl f s

theorem SameBut.mono {fs gs : Set Field} {s t : State} (h : SameBut fs s t) (hsub : fs ⊆ gs) : SameBut gs s t :=
  fun f hf => h f fun hin => hf (hsub hin)

theorem SameBut.trans {fs gs : Set Field} {s t u : State} (h : SameBut fs s t) (h' : SameBut gs t u) :
    SameBut (fs ∪ gs) s u :=
  fun f hf => (h f fun hin => hf (.inl hin)).trans (h' f fun hin => hf (.inr hin))

/-! ## What each update writes -/

section
variable (s : State)

theorem sameBut_setReg (x : Reg) (b : Byte) : SameBut {.reg x} s (s.setReg x b) := by
  intro f hf
  cases f <;> simp_all [Field.Same]

theorem sameBut_setRegFlag (x : Reg) (b f : Byte) : SameBut {.reg x, .reg VF} s (s.setRegFlag x b f) :=
  (sameBut_setReg s x b).trans (sameBut_setReg _ VF f)

theorem sameBut_setRegLogic (x : Reg) (b : Byte) :
    SameBut {f | f = .reg x ∨ (f = .reg VF ∧ s.cfg.profile = .vip)} s (s.setRegLogic x b) := by
  unfold State.setRegLogic
  split
  · exact (sameBut_setRegFlag s x b 0#8).mono (by simp_all [Set.subset_def])
  · exact (sameBut_setReg s x b).mono (by simp)

/-- Replacing the register file writes the registers that differ. -/
theorem sameBut_v (v : Vector Byte 16) :
    SameBut {f | ∃ z : Reg, f = .reg z ∧ v[z.toNat]'z.isLt ≠ s.reg z} s { s with v := v } := by
  intro f hf
  cases f <;> simp_all [Field.Same, State.reg]

/-- Loading bytes into the registers from `V[0]` on writes the registers below their number. -/
theorem sameBut_setFrom (bs : List Byte) :
    SameBut {f | ∃ z : Reg, f = .reg z ∧ z.toNat < bs.length} s { s with v := setFrom s.v 0 bs } := by
  refine (sameBut_v s _).mono ?_
  rintro f ⟨z, rfl, hz⟩
  refine ⟨z, rfl, ?_⟩
  by_contra hlen
  exact hz (by rw [getElem_setFrom, if_neg (by omega), State.reg])

theorem sameBut_setI (a : Addr) : SameBut {.i} s (s.setI a) := by
  intro f hf
  cases f <;> simp_all [Field.Same, State.reg]

theorem sameBut_bumpI (x : Reg) : SameBut {f | f = .i ∧ s.cfg.profile = .vip} s (s.bumpI x) := by
  unfold State.bumpI
  split
  · exact (sameBut_setI s _).mono (by simp_all)
  · exact .refl _ s

theorem sameBut_setPc (a : Addr) : SameBut {.pc} s (s.setPc a) := by
  intro f hf
  cases f <;> simp_all [Field.Same, State.reg]

theorem sameBut_skipIf (c : Bool) : SameBut {.pc} s (s.skipIf c) := by
  cases c
  · exact .refl _ s
  · exact sameBut_setPc s _

theorem sameBut_storeBytes (a : Nat) (bs : List Byte) : SameBut {.mem} s (s.storeBytes a bs) := by
  intro f hf
  cases f <;> simp_all [Field.Same, State.reg]

theorem sameBut_fb (fb : Framebuffer) : SameBut {.fb} s { s with fb := fb } := by
  intro f hf
  cases f <;> simp_all [Field.Same, State.reg]

theorem sameBut_setMode (m : Bool) : SameBut {.hires, .fb} s (s.setMode m) := by
  intro f hf
  cases f <;> simp_all [Field.Same, State.reg]

theorem sameBut_clear : SameBut {.fb, .draws} s s.clear := by
  intro f hf
  cases f <;> simp_all [Field.Same, State.reg]

theorem sameBut_draws (n : Nat) : SameBut {.draws} s { s with draws := n } := by
  intro f hf
  cases f <;> simp_all [Field.Same, State.reg]

theorem sameBut_stackSpPc (k : Vector Addr 16) (n : Nat) (a : Addr) :
    SameBut {.stack, .sp, .pc} s { s with stack := k, sp := n, pc := a } := by
  intro f hf
  cases f <;> simp_all [Field.Same, State.reg]

theorem sameBut_spPc (n : Nat) (a : Addr) : SameBut {.sp, .pc} s { s with sp := n, pc := a } := by
  intro f hf
  cases f <;> simp_all [Field.Same, State.reg]

theorem sameBut_dt (d : TimerCapture) : SameBut {.dt} s { s with dt := d } := by
  intro f hf
  cases f <;> simp_all [Field.Same, State.reg]

theorem sameBut_st (d : TimerCapture) : SameBut {.st} s { s with st := d } := by
  intro f hf
  cases f <;> simp_all [Field.Same, State.reg]

theorem sameBut_armed (a : Bool) : SameBut {.armed} s { s with armed := a } := by
  intro f hf
  cases f <;> simp_all [Field.Same, State.reg]

theorem sameBut_hints (h : KeySet) : SameBut {.hints} s { s with hints := h } := by
  intro f hf
  cases f <;> simp_all [Field.Same, State.reg]

theorem sameBut_halted (b : Bool) : SameBut {.halted} s { s with halted := b } := by
  intro f hf
  cases f <;> simp_all [Field.Same, State.reg]

theorem sameBut_rpl (v : Vector Byte 8) : SameBut {.rpl} s { s with rpl := v } := by
  intro f hf
  cases f <;> simp_all [Field.Same, State.reg]

end

end Sys2Proof.Machine
end

section
/-! PROOF. The access table of 10_state.md R50 as data, and that every instruction keeps to it: an instruction completes and writes
only its own pieces of state, or faults and writes the record alone. -/

namespace Sys2Proof.Machine

/-! ## The access table -/

/-- The pieces of state that an instruction writes when it completes (R50). -/
def writtenFields (c : Config) : Instr → Set Field
  | .sys _ => ∅
  | .cls => {.fb, .draws}
  | .ret => {.sp, .pc}
  | .call _ => {.stack, .sp, .pc}
  | .jp _ | .jpV0 _ | .seVxNn _ _ | .sneVxNn _ _ | .seVxVy _ _ | .sneVxVy _ _ | .c8eSks _ _ => {.pc}
  | .ldVxNn x _ | .addVxNn x _ | .ldVxVy x _ => {.reg x}
  | .or x _ | .and x _ | .xor x _ => {f | f = .reg x ∨ (f = .reg VF ∧ c.profile = .vip)}
  | .addVxVy x _ | .sub x _ | .shr x _ | .subn x _ | .shl x _ | .c8eMul x _ | .c8eDiv x _ => {.reg x, .reg VF}
  | .ldI _ | .addIVx _ | .ldF _ | .ldHf _ => {.i}
  | .rnd x _ => {.reg x, .draws}
  | .drw _ _ _ | .drw16 _ _ => {.fb, .reg VF}
  | .skp _ | .sknp _ => {.hints, .pc}
  | .ldVxDt x => {.dt, .reg x}
  | .ldVxK x => {.armed, .reg x, .pc}
  | .ldDtVx _ => {.dt}
  | .ldStVx _ => {.st}
  | .ldB _ | .c8eBcd16 _ _ => {.mem}
  | .ldMiVx _ => {f | f = .mem ∨ (f = .i ∧ c.profile = .vip)}
  | .ldVxMi x => {f | (∃ z : Reg, f = .reg z ∧ z.toNat ≤ x.toNat) ∨ (f = .i ∧ c.profile = .vip)}
  | .scd _ | .scr | .scl => {.fb}
  | .exit => {.halted}
  | .low | .high => {.hires, .fb}
  | .ldRVx _ => {.rpl}
  | .ldVxR x => {f | ∃ z : Reg, f = .reg z ∧ z.toNat ≤ x.toNat ∧ x.toNat ≤ 7}
  | .c8eAscii _ _ => {f | f = .mem ∨ f = .i ∨ ∃ z, f = .reg z}
  | .c8eOp6 _ _ => {f | f = .pc ∨ f = .i ∨ ∃ z, f = .reg z}

/-- The instruction has a fault condition on a machine with this configuration (R401; logs 6, 12). -/
def HasFaultCondition (c : Config) : Instr → Prop
  | .ret | .call _ | .ldF _ | .ldHf _ | .skp _ | .sknp _ | .ldB _ | .ldMiVx _ | .ldVxMi _ | .drw _ _ _ | .drw16 _ _
  | .c8eDiv _ _ | .c8eBcd16 _ _ | .c8eAscii _ _ => True
  | .ldRVx x | .ldVxR x => 7 < x.toNat
  | .scd n => n = 0#4
  | .c8eSks _ _ | .c8eMul _ _ => c.c8e = none
  | .c8eOp6 _ _ => ∀ p, c.c8e = some p → p.op6 = none
  | .sys _ | .cls | .jp _ | .seVxNn _ _ | .sneVxNn _ _ | .seVxVy _ _ | .ldVxNn _ _ | .addVxNn _ _ | .ldVxVy _ _ | .or _ _
  | .and _ _ | .xor _ _ | .addVxVy _ _ | .sub _ _ | .shr _ _ | .subn _ _ | .shl _ _ | .sneVxVy _ _ | .ldI _ | .jpV0 _
  | .rnd _ _ | .ldVxDt _ | .ldVxK _ | .ldDtVx _ | .ldStVx _ | .addIVx _ | .scr | .scl | .exit | .low | .high => False

/-! ## What a meaning can do -/

/-- A meaning run in `s` completes and writes only pieces in `fs`, or, where it has a fault condition, raises a fault: of a code that
instructions raise, with an offending address for MEM_RANGE only (R402, R403). -/
def Effect (fs : Set Field) (faults : Prop) (s : State) (r : Result) : Prop :=
  (∃ t, r = .next t ∧ SameBut fs s t) ∨
  (faults ∧ ∃ code addr, r = raise code addr s ∧ (addr = none ↔ code ≠ .memRange) ∧ code ≠ .fetchRange)

section
variable {fs : Set Field} {faults : Prop} {s : State}

theorem effect_next {t : State} (h : SameBut fs s t) : Effect fs faults s (.next t) := .inl ⟨t, rfl, h⟩

theorem effect_raise (h : faults) (code : FaultCode) (hr : code ≠ .memRange) (hf : code ≠ .fetchRange) :
    Effect fs faults s (raise code none s) :=
  .inr ⟨h, code, none, rfl, by simp [hr], hf⟩

theorem effect_checked (r : Region) (a n : Nat) {k : Result} (h : faults) (hk : Effect fs faults s k) :
    Effect fs faults s (checked r a n s k) := by
  rcases checked_cases r a n s k with ⟨e, -⟩ | ⟨bad, e, -⟩ <;> rw [e]
  · exact hk
  · exact .inr ⟨h, .memRange, some bad, rfl, by simp, by simp⟩

theorem effect_operandCheck {ok : Bool} {k : Result} (h : ok = false → faults) (hk : ok = true → Effect fs faults s k) :
    Effect fs faults s (operandCheck ok s k) := by
  rcases operandCheck_cases ok s k with ⟨hok, e⟩ | ⟨hok, e⟩ <;> rw [e]
  · exact hk hok
  · exact effect_raise (h hok) .operand (by simp) (by simp)

theorem effect_withC8E {k : C8E → Result} (h : s.cfg.c8e = none → faults)
    (hk : ∀ p, s.cfg.c8e = some p → Effect fs faults s (k p)) : Effect fs faults s (withC8E s k) := by
  rcases withC8E_cases s k with ⟨p, hp, e⟩ | ⟨hp, e⟩ <;> rw [e]
  · exact hk p hp
  · exact effect_raise (h hp) .decode (by simp) (by simp)

theorem effect_drawRows (x y : Reg) (rows : List Nat) (n : Nat) :
    Effect {.fb, .reg VF} faults s (drawRows x y rows n s) :=
  effect_next ((sameBut_fb s _).trans (sameBut_setReg _ VF _))

theorem effect_withKey (x : Reg) (c : Nibble → State → Bool) :
    Effect {.hints, .pc} True s (withKey x s fun key t => .next (t.skipIf (c key t))) :=
  effect_operandCheck (fun _ => trivial) fun _ => effect_next ((sameBut_hints s _).trans (sameBut_skipIf _ _))

theorem effect_ldVxK (x : Reg) : Effect {.armed, .reg x, .pc} faults s (execLdVxK x s) := by
  unfold execLdVxK
  dsimp only
  split
  · exact effect_next (((sameBut_armed s _).trans (sameBut_setReg _ x _)).mono (by simp [Set.subset_def]))
  · exact effect_next (((sameBut_armed s _).trans (sameBut_setPc _ _)).mono (by simp [Set.subset_def]))

theorem effect_drw16 (x y : Reg) : Effect {.fb, .reg VF} True s (execDrw16 x y s) := by
  unfold execDrw16
  split
  · exact effect_raise trivial .profile (by simp) (by simp)
  · split <;> exact effect_checked _ _ _ trivial (effect_drawRows x y _ _)

theorem effect_ret : Effect {.sp, .pc} True s (execRet s) := by
  unfold execRet
  split
  · exact effect_raise trivial .stackUnderflow (by simp) (by simp)
  · exact effect_next (sameBut_spPc s _ _)

theorem effect_call (nnn : Addr) : Effect {.stack, .sp, .pc} True s (execCall nnn s) := by
  unfold execCall
  split
  · exact effect_raise trivial .stackOverflow (by simp) (by simp)
  · exact effect_next (sameBut_stackSpPc s _ _ _)

theorem effect_ldMiVx (x : Reg) : Effect (writtenFields s.cfg (.ldMiVx x)) True s (execLdMiVx x s) :=
  let t := s.storeBytes s.i.toNat (s.regsUpTo x)
  effect_checked _ _ _ trivial (effect_next ((sameBut_storeBytes s _ _).trans (sameBut_bumpI t x)))

theorem effect_ldVxMi (x : Reg) : Effect (writtenFields s.cfg (.ldVxMi x)) True s (execLdVxMi x s) := by
  refine effect_checked _ _ _ trivial (effect_next (((sameBut_setFrom s _).trans (sameBut_bumpI _ x)).mono ?_))
  rintro f (⟨z, rfl, hz⟩ | hf)
  · exact .inl ⟨z, rfl, by simp at hz; omega⟩
  · exact .inr hf

theorem length_rplUpTo_le (s : State) (x : Reg) : (s.rplUpTo x).length ≤ x.toNat + 1 := by simp [State.rplUpTo]

theorem effect_ldVxR (x : Reg) : Effect (writtenFields s.cfg (.ldVxR x)) (7 < x.toNat) s (execLdVxR x s) := by
  refine effect_operandCheck (by simp) fun hx => effect_next ((sameBut_setFrom s _).mono ?_)
  rintro f ⟨z, rfl, hz⟩
  have := length_rplUpTo_le s x
  exact ⟨z, rfl, by omega, by simpa using hx⟩

theorem effect_c8eDiv (x y : Reg) : Effect {.reg x, .reg VF} True s (execC8eDiv x y s) := by
  refine effect_withC8E (fun _ => trivial) fun p _ => ?_
  split
  · exact effect_raise trivial .divZero (by simp) (by simp)
  · exact effect_next (sameBut_setRegFlag s _ _ _)

theorem effect_c8eAscii (x y : Reg) : Effect (writtenFields s.cfg (.c8eAscii x y)) True s (execC8eAscii x y s) := by
  refine effect_withC8E (fun _ => trivial) fun p _ => effect_operandCheck (fun _ => trivial) fun _ => ?_
  refine effect_next ((((sameBut_storeBytes s _ _).trans (sameBut_setI _ _)).trans (sameBut_v _ _)).mono ?_)
  rintro f ((hf | hf) | ⟨z, hf, -⟩)
  exacts [.inl hf, .inr (.inl hf), .inr (.inr ⟨z, hf⟩)]

theorem effect_c8eOp6 (x y : Reg) :
    Effect (writtenFields s.cfg (.c8eOp6 x y)) (HasFaultCondition s.cfg (.c8eOp6 x y)) s (execC8eOp6 x y s) := by
  refine effect_withC8E (fun hc p hp => by simp [hc] at hp) fun p hp => ?_
  split
  · rename_i hop
    refine effect_raise (fun q hq => ?_) .decode (by simp) (by simp)
    rw [hp] at hq; cases hq; exact hop
  · split
    · exact effect_next ((sameBut_skipIf s _).mono (by simp [writtenFields]))
    · refine effect_next ((((sameBut_v s _).trans (sameBut_setI _ _)).trans (sameBut_skipIf _ _)).mono ?_)
      rintro f ((⟨z, hf, -⟩ | hf) | hf)
      exacts [.inr (.inr ⟨z, hf⟩), .inr (.inl hf), .inl hf]

end

/-- Every instruction completes and writes only its own pieces of state, or faults where it has a fault condition. -/
theorem exec_effect (i : Instr) (s : State) :
    Effect (writtenFields s.cfg i) (HasFaultCondition s.cfg i) s (exec i s) := by
  cases i with
  | sys nnn => exact effect_next (.refl _ s)
  | cls => exact effect_next (sameBut_clear s)
  | ret => exact effect_ret
  | call nnn => exact effect_call nnn
  | jp nnn => exact effect_next (sameBut_setPc s _)
  | jpV0 nnn => exact effect_next (sameBut_setPc s _)
  | seVxNn x nn => exact effect_next (sameBut_skipIf s _)
  | sneVxNn x nn => exact effect_next (sameBut_skipIf s _)
  | seVxVy x y => exact effect_next (sameBut_skipIf s _)
  | sneVxVy x y => exact effect_next (sameBut_skipIf s _)
  | ldVxNn x nn => exact effect_next (sameBut_setReg s x _)
  | addVxNn x nn => exact effect_next (sameBut_setReg s x _)
  | ldVxVy x y => exact effect_next (sameBut_setReg s x _)
  | or x y => exact effect_next (sameBut_setRegLogic s x _)
  | and x y => exact effect_next (sameBut_setRegLogic s x _)
  | xor x y => exact effect_next (sameBut_setRegLogic s x _)
  | addVxVy x y => exact effect_next (sameBut_setRegFlag s x _ _)
  | sub x y => exact effect_next (sameBut_setRegFlag s x _ _)
  | shr x y => exact effect_next (sameBut_setRegFlag s x _ _)
  | subn x y => exact effect_next (sameBut_setRegFlag s x _ _)
  | shl x y => exact effect_next (sameBut_setRegFlag s x _ _)
  | ldI nnn => exact effect_next (sameBut_setI s _)
  | addIVx x => exact effect_next (sameBut_setI s _)
  | ldF x => exact effect_operandCheck (fun _ => trivial) fun _ => effect_next (sameBut_setI s _)
  | ldHf x => exact effect_operandCheck (fun _ => trivial) fun _ => effect_next (sameBut_setI s _)
  | rnd x nn => exact effect_next ((sameBut_setReg s x _).trans (sameBut_draws _ _))
  | drw x y n => exact effect_checked _ _ _ trivial (effect_drawRows x y _ _)
  | drw16 x y => exact effect_drw16 x y
  | skp x => exact effect_withKey x fun key t => t.down.has key
  | sknp x => exact effect_withKey x fun key t => !t.down.has key
  | ldVxDt x => exact effect_next ((sameBut_dt s _).trans (sameBut_setReg _ x _))
  | ldVxK x => exact effect_ldVxK x
  | ldDtVx x => exact effect_next (sameBut_dt s _)
  | ldStVx x => exact effect_next (sameBut_st s _)
  | ldB x => exact effect_checked _ _ _ trivial (effect_next (sameBut_storeBytes s _ _))
  | ldMiVx x => exact effect_ldMiVx x
  | ldVxMi x => exact effect_ldVxMi x
  | scd n => exact effect_operandCheck (by simp [HasFaultCondition]) fun _ => effect_next (sameBut_fb s _)
  | scr => exact effect_next (sameBut_fb s _)
  | scl => exact effect_next (sameBut_fb s _)
  | exit => exact effect_next (sameBut_halted s _)
  | low => exact effect_next (sameBut_setMode s _)
  | high => exact effect_next (sameBut_setMode s _)
  | ldRVx x => exact effect_operandCheck (by simp [HasFaultCondition]) fun _ => effect_next (sameBut_rpl s _)
  | ldVxR x => exact effect_ldVxR x
  | c8eSks x y => exact effect_withC8E id fun _ _ => effect_next (sameBut_skipIf s _)
  | c8eMul x y => exact effect_withC8E id fun _ _ => effect_next (sameBut_setRegFlag s x _ _)
  | c8eDiv x y => exact effect_c8eDiv x y
  | c8eBcd16 x y =>
    exact effect_withC8E (fun _ => trivial) fun _ _ =>
      effect_checked _ _ _ trivial (effect_next (sameBut_storeBytes s _ _))
  | c8eAscii x y => exact effect_c8eAscii x y
  | c8eOp6 x y => exact effect_c8eOp6 x y

/-- If an instruction answers a next state, it completed and wrote only its own pieces of state, or it has a fault condition and
wrote the record alone. -/
theorem exec_cases {i : Instr} {s t : State} (h : exec i s = .next t) :
    SameBut (writtenFields s.cfg i) s t ∨
    (HasFaultCondition s.cfg i ∧ ∃ code addr, t = s.takeFault code (some (s.wordAt s.pc.toNat)) addr ∧
      (addr = none ↔ code ≠ .memRange) ∧ code ≠ .fetchRange) := by
  rcases exec_effect i s with ⟨u, e, hu⟩ | ⟨hf, code, addr, e, hc⟩ <;> rw [h] at e <;> cases e
  · exact .inl hu
  · exact .inr ⟨hf, code, addr, rfl, hc⟩

theorem sameBut_takeFault (s : State) (code : FaultCode) (w : Option Word) (addr : Option Nat) :
    SameBut {.fault} s (s.takeFault code w addr) := by
  intro f hf
  cases f <;> simp_all [Field.Same, State.reg]

/-- A piece of state other than the record is the same after an instruction, or is one that the instruction writes. -/
theorem exec_same_or_written {i : Instr} {s t : State} (h : exec i s = .next t) {f : Field} (hf : f ≠ .fault) :
    f.Same s t ∨ f ∈ writtenFields s.cfg i := by
  rcases exec_cases h with hs | ⟨-, code, addr, rfl, -⟩
  · by_cases hw : f ∈ writtenFields s.cfg i
    · exact .inr hw
    · exact .inl (hs f hw)
  · exact .inl (sameBut_takeFault s _ _ _ f hf)

end Sys2Proof.Machine
end

section
/-! PROOF. The access table read by column: which instructions write a piece of state. -/

namespace Sys2Proof.Machine

/-! ## The writers of each piece of state: the access table read by column -/

section
variable {c : Config} {i : Instr}

theorem written_reg {z : Reg} (h : .reg z ∈ writtenFields c i) :
    (∃ n, i = .ldVxNn z n ∨ i = .addVxNn z n ∨ i = .rnd z n) ∨ i = .ldVxDt z ∨ i = .ldVxK z ∨
    (∃ y, i = .ldVxVy z y ∨ i = .or z y ∨ i = .and z y ∨ i = .xor z y ∨ i = .addVxVy z y ∨ i = .sub z y ∨ i = .shr z y ∨
      i = .subn z y ∨ i = .shl z y ∨ i = .c8eMul z y ∨ i = .c8eDiv z y) ∨
    (∃ x, z.toNat ≤ x.toNat ∧ (i = .ldVxMi x ∨ (i = .ldVxR x ∧ x.toNat ≤ 7))) ∨
    (z = VF ∧ ∃ x y, i = .addVxVy x y ∨ i = .sub x y ∨ i = .shr x y ∨ i = .subn x y ∨ i = .shl x y ∨ i = .drw16 x y ∨
      i = .c8eMul x y ∨ i = .c8eDiv x y ∨ (∃ n, i = .drw x y n) ∨
      (c.profile = .vip ∧ (i = .or x y ∨ i = .and x y ∨ i = .xor x y))) ∨
    ∃ x y, i = .c8eAscii x y ∨ i = .c8eOp6 x y := by
  cases i <;> simp_all [writtenFields, eq_comm (a := z)]

theorem written_i (h : .i ∈ writtenFields c i) :
    (∃ n, i = .ldI n) ∨ (∃ x, i = .addIVx x) ∨ (∃ x, i = .ldF x) ∨ (∃ x, i = .ldHf x) ∨
    (c.profile = .vip ∧ ((∃ x, i = .ldMiVx x) ∨ ∃ x, i = .ldVxMi x)) ∨ (∃ x y, i = .c8eAscii x y) ∨
    ∃ x y, i = .c8eOp6 x y := by
  cases i <;> simp_all [writtenFields]

theorem written_pc (h : .pc ∈ writtenFields c i) :
    i = .ret ∨ (∃ n, i = .jp n) ∨ (∃ n, i = .call n) ∨ (∃ x n, i = .seVxNn x n) ∨
    (∃ x n, i = .sneVxNn x n) ∨ (∃ x y, i = .seVxVy x y) ∨ (∃ x y, i = .sneVxVy x y) ∨ (∃ n, i = .jpV0 n) ∨
    (∃ x, i = .skp x) ∨ (∃ x, i = .sknp x) ∨ (∃ x, i = .ldVxK x) ∨ (∃ x y, i = .c8eSks x y) ∨ ∃ x y, i = .c8eOp6 x y := by
  cases i <;> simp_all [writtenFields]

theorem written_sp (h : .sp ∈ writtenFields c i) : i = .ret ∨ ∃ n, i = .call n := by
  cases i <;> simp_all [writtenFields]

theorem written_stack (h : .stack ∈ writtenFields c i) : ∃ n, i = .call n := by
  cases i <;> simp_all [writtenFields]

theorem written_rpl (h : .rpl ∈ writtenFields c i) : ∃ x, i = .ldRVx x := by
  cases i <;> simp_all [writtenFields]

theorem written_dt (h : .dt ∈ writtenFields c i) : (∃ x, i = .ldDtVx x) ∨ ∃ x, i = .ldVxDt x := by
  cases i <;> simp_all [writtenFields]

theorem written_st (h : .st ∈ writtenFields c i) : ∃ x, i = .ldStVx x := by
  cases i <;> simp_all [writtenFields]

theorem written_fb (h : .fb ∈ writtenFields c i) :
    i = .cls ∨ (∃ x y n, i = .drw x y n) ∨ (∃ x y, i = .drw16 x y) ∨ (∃ n, i = .scd n) ∨ i = .scr ∨ i = .scl ∨ i = .low ∨
    i = .high := by
  cases i <;> simp_all [writtenFields]

theorem written_hires (h : .hires ∈ writtenFields c i) : i = .low ∨ i = .high := by
  cases i <;> simp_all [writtenFields]

theorem written_armed (h : .armed ∈ writtenFields c i) : ∃ x, i = .ldVxK x := by
  cases i <;> simp_all [writtenFields]

theorem written_hints (h : .hints ∈ writtenFields c i) : (∃ x, i = .skp x) ∨ ∃ x, i = .sknp x := by
  cases i <;> simp_all [writtenFields]

theorem written_halted (h : .halted ∈ writtenFields c i) : i = .exit := by
  cases i <;> simp_all [writtenFields]

theorem written_draws (h : .draws ∈ writtenFields c i) : i = .cls ∨ ∃ x n, i = .rnd x n := by
  cases i <;> simp_all [writtenFields]

theorem written_mem (h : .mem ∈ writtenFields c i) :
    (∃ x, i = .ldB x) ∨ (∃ x, i = .ldMiVx x) ∨ (∃ x y, i = .c8eBcd16 x y) ∨ ∃ x y, i = .c8eAscii x y := by
  cases i <;> simp_all [writtenFields]

/-- The pieces of state that no instruction writes: the host's data, the configuration and the last step's result. -/
theorem not_written : .cfg ∉ writtenFields c i ∧ .down ∉ writtenFields c i ∧ .progEnd ∉ writtenFields c i ∧
    .image ∉ writtenFields c i ∧ .now ∉ writtenFields c i ∧ .inputs ∉ writtenFields c i ∧ .result ∉ writtenFields c i := by
  cases i <;> simp [writtenFields]

theorem hasFaultCondition_iff : HasFaultCondition c i ↔
    (i = .ret ∨ (∃ n, i = .call n) ∨ (∃ x, i = .ldF x ∨ i = .ldHf x ∨ i = .skp x ∨ i = .sknp x) ∨
      (∃ x, i = .ldB x ∨ i = .ldMiVx x ∨ i = .ldVxMi x) ∨ (∃ x, 7 < x.toNat ∧ (i = .ldRVx x ∨ i = .ldVxR x)) ∨
      (∃ x y n, i = .drw x y n) ∨ (∃ x y, i = .drw16 x y) ∨ i = .scd 0#4 ∨
      (∃ x y, i = .c8eDiv x y ∨ i = .c8eBcd16 x y ∨ i = .c8eAscii x y) ∨ (c.c8e = none ∧ IsC8E i) ∨
      ∃ x y p, i = .c8eOp6 x y ∧ c.c8e = some p ∧ p.op6 = none) := by
  cases hc : c.c8e <;> cases i <;> simp [HasFaultCondition, IsC8E, hc]

end

end Sys2Proof.Machine
end

section
/-! PROOF. The statements on what an instruction writes: O15 and O16. -/

namespace Sys2Proof.Machine

/-- A piece of state other than the record that an instruction changed is one that it writes. -/
theorem written_of_changed {i : Instr} {s t : State} (h : exec i s = .next t) {f : Field} (hf : f ≠ .fault)
    (hne : ¬ f.Same s t) : f ∈ writtenFields s.cfg i :=
  (exec_same_or_written h hf).resolve_left hne

/-- A piece of state other than the record that an instruction does not write is the same after it. -/
theorem same_of_not_written {i : Instr} {s t : State} (h : exec i s = .next t) {f : Field} (hf : f ≠ .fault)
    (hw : f ∉ writtenFields s.cfg i) : f.Same s t :=
  (exec_same_or_written h hf).resolve_right hw

theorem fault_not_written {c : Config} {i : Instr} : .fault ∉ writtenFields c i := by
  cases i <;> simp [writtenFields]

/-- An instruction that changes the record has a fault condition. -/
theorem hasFaultCondition_of_changed {i : Instr} {s t : State} (h : exec i s = .next t) (hne : t.fault ≠ s.fault) :
    HasFaultCondition s.cfg i := by
  rcases exec_cases h with hs | ⟨hf, -⟩
  · exact absurd (hs .fault fault_not_written) hne
  · exact hf

theorem exec_cfg {i : Instr} {s t : State} (h : exec i s = .next t) : t.cfg = s.cfg :=
  same_of_not_written h (f := .cfg) (by simp) not_written.1

/-- An instruction that changes a byte writes memory. -/
theorem mem_written_of_byte_changed {i : Instr} {s t : State} (h : exec i s = .next t) {a : Nat}
    (hne : t.byte a ≠ s.byte a) : .mem ∈ writtenFields s.cfg i :=
  written_of_changed h (f := .mem) (by simp) fun hm => hne (byte_congr s t hm (exec_cfg h) a)

/-- Settles O15: each clause is the column of the access table for its piece of state. -/
theorem instructionsWriteOnlyTheirOwnState : Obligations.InstructionsWriteOnlyTheirOwnState := by
  intro i s t h
  have changed {f : Field} (hf : f ≠ .fault) : ¬ f.Same s t → f ∈ writtenFields s.cfg i := written_of_changed h hf
  have same {f : Field} (hf : f ≠ .fault) : f ∉ writtenFields s.cfg i → f.Same s t := same_of_not_written h hf
  obtain ⟨hcfg, hdown, hend, himage, hnow, hinputs, hresult⟩ := not_written (c := s.cfg) (i := i)
  refine ⟨same (by simp) hcfg, same (by simp) hdown, same (by simp) hend, same (by simp) himage, same (by simp) hnow,
    same (by simp) hinputs, same (by simp) hresult, fun z hz => ?reg, fun hne => ?fault,
    fun hne => written_i (changed (by simp) hne), fun hne => written_pc (changed (by simp) hne),
    fun hne => written_sp (changed (by simp) hne), fun hne => written_stack (changed (by simp) hne),
    fun hne => written_rpl (changed (by simp) hne), fun hne => written_dt (changed (by simp) hne),
    fun hne => written_st (changed (by simp) hne), fun hne => written_fb (changed (by simp) hne),
    fun hne => written_hires (changed (by simp) hne), fun hne => written_armed (changed (by simp) hne),
    fun hne => written_hints (changed (by simp) hne), fun hne => written_halted (changed (by simp) hne),
    fun hne => written_draws (changed (by simp) hne), fun ⟨a, hne⟩ => written_mem (mem_written_of_byte_changed h hne)⟩
  case reg =>
    have hw := written_reg (changed (f := .reg z) (by simp) hz)
    refine hw.imp id (.imp id (.imp id (.imp id (.imp ?_ id))))
    rintro ⟨x, hle, hi | ⟨hi, -⟩⟩
    exacts [⟨x, hle, .inl hi⟩, ⟨x, hle, .inr hi⟩]
  case fault => exact hasFaultCondition_iff.mp (hasFaultCondition_of_changed h hne)

/-- The last register is VF. -/
theorem eq_VF_of_le {x : Reg} (h : VF.toNat ≤ x.toNat) : x = VF :=
  BitVec.eq_of_toNat_eq (Nat.le_antisymm (Nat.lt_succ_iff.mp x.isLt) h)

/-- Settles O16: VF's column of the access table. Of the two loads only FX65 can reach VF, since FX85 loads `V[0..7]` at most. -/
theorem flagRegisterWrittenOnlyAsFlagOrDestination : Obligations.FlagRegisterWrittenOnlyAsFlagOrDestination := by
  intro i s t h hne
  have hw := written_of_changed h (f := .reg VF) (by simp) hne
  clear h hne
  cases i with
  | or x y | and x y | xor x y =>
    have hx : VF = x ∨ s.cfg.profile = .vip := by simpa [writtenFields] using hw
    rcases hx with rfl | hvip
    · simp
    · simp [hvip]
  | ldVxMi x =>
    have hx : VF.toNat ≤ x.toNat := by simpa [writtenFields] using hw
    simp [eq_VF_of_le hx]
  | ldVxR x =>
    have hx : VF.toNat ≤ x.toNat ∧ x.toNat ≤ 7 := by simpa [writtenFields] using hw
    exact absurd (hx.1.trans hx.2) (by decide)
  | _ => simp_all [writtenFields]

end Sys2Proof.Machine
end

section
/-! PROOF. What every step keeps: the invariant (O13) and the bytes below the program base (O17). -/

namespace Sys2Proof.Machine

/-! ## The parameters of a valid configuration -/

/-- The layout of a valid configuration, as inequalities (R55 to R57). -/
theorem layoutValid_fonts {c : Config} (h : c.layoutValid = true) :
    c.fontLo.length = 80 ∧ c.fontHi.length = 100 ∧ c.fontLoBase + 80 ≤ programBase ∧
    c.fontHiBase + 160 ≤ programBase ∧ (c.fontLoBase + 80 ≤ c.fontHiBase ∨ c.fontHiBase + 160 ≤ c.fontLoBase) := by
  simp only [Config.layoutValid, rangesApart, Bool.and_eq_true, Bool.or_eq_true, decide_eq_true_eq, beq_iff_eq] at h
  obtain ⟨⟨⟨⟨⟨⟨-, hlo⟩, hhi⟩, hlb⟩, hhb⟩, hap⟩, -⟩ := h
  exact ⟨hlo, hhi, hlb, hhb, hap⟩

/-- The range `[a, a + n)` lies in 0x0F0..0x1FF and apart from both fonts (R337). -/
def InTableSpace (c : Config) (a n : Nat) : Prop :=
  0x0F0 ≤ a ∧ a + n ≤ programBase ∧ (a + n ≤ c.fontLoBase ∨ c.fontLoBase + 80 ≤ a) ∧
  (a + n ≤ c.fontHiBase ∨ c.fontHiBase + 160 ≤ a)

/-- The layout of the CHIP-8E tables and scratch region of a valid configuration (R337, R57). -/
theorem layoutValid_tables {c : Config} (h : c.layoutValid = true) {p : C8E} (hp : c.c8e = some p) :
    InTableSpace c p.asciiPatBase p.asciiPatterns.length ∧ InTableSpace c p.asciiIdxBase p.asciiIndex.length ∧
    InTableSpace c p.asciiScratch p.asciiRows ∧
    (p.asciiPatBase + p.asciiPatterns.length ≤ p.asciiIdxBase ∨ p.asciiIdxBase + p.asciiIndex.length ≤ p.asciiPatBase) ∧
    p.fontHiExt.length = 60 := by
  simp only [Config.layoutValid, C8E.layoutValid, rangesApart, hp, Option.all_some, List.all_cons, List.all_nil,
    Bool.and_eq_true, Bool.or_eq_true, decide_eq_true_eq, beq_iff_eq, Bool.and_true] at h
  unfold InTableSpace
  omega

theorem programBase_le_memSize (c : Config) : programBase ≤ c.memSize := by
  unfold Config.memSize
  split <;> decide

/-! ## Inversion of the checks -/

/-- The second state is the first with a fault record. -/
def FaultedFrom (s t : State) : Prop := ∃ code w addr, t = s.takeFault code w addr

theorem next_of_checked {r : Region} {a n : Nat} {s t : State} {k : Result} (h : checked r a n s k = .next t) :
    (k = .next t ∧ (n = 0 ∨ (r.lo ≤ a ∧ a + n ≤ s.cfg.memSize))) ∨ FaultedFrom s t := by
  rcases checked_cases r a n s k with ⟨e, hr⟩ | ⟨bad, e, -⟩ <;> rw [e] at h
  · exact .inl ⟨h, hr⟩
  · cases h; exact .inr ⟨_, _, _, rfl⟩

theorem next_of_operandCheck {ok : Bool} {s t : State} {k : Result} (h : operandCheck ok s k = .next t) :
    k = .next t ∨ FaultedFrom s t := by
  rcases operandCheck_cases ok s k with ⟨-, e⟩ | ⟨-, e⟩ <;> rw [e] at h
  · exact .inl h
  · cases h; exact .inr ⟨_, _, _, rfl⟩

theorem next_of_withC8E {s t : State} {k : C8E → Result} (h : withC8E s k = .next t) :
    (∃ p, s.cfg.c8e = some p ∧ k p = .next t) ∨ FaultedFrom s t := by
  rcases withC8E_cases s k with ⟨p, hp, e⟩ | ⟨-, e⟩ <;> rw [e] at h
  · exact .inl ⟨p, hp, h⟩
  · cases h; exact .inr ⟨_, _, _, rfl⟩

/-! ## What an instruction does to memory -/

/-- The memory of `t` is that of `s`, or that of `s` with bytes stored in the data region (R77). -/
def StoresData (s t : State) : Prop :=
  t.mem = s.mem ∨
  ∃ a bs, programBase ≤ a ∧ a + bs.length ≤ s.cfg.memSize ∧ t.mem = (s.storeBytes a bs).mem

theorem storesData_of_faulted {s t : State} (h : FaultedFrom s t) : StoresData s t := by
  obtain ⟨code, w, addr, rfl⟩ := h
  exact .inl rfl

theorem storesData_of_checked {a n : Nat} {s t u : State} (bs : List Byte)
    (h : checked .data a n s (.next u) = .next t) (hlen : bs.length = n) (hn : n ≠ 0)
    (hu : u.mem = (s.storeBytes a bs).mem) : StoresData s t := by
  rcases next_of_checked h with ⟨e, hr⟩ | hf
  · cases e
    obtain ⟨hlo, hhi⟩ := hr.resolve_left hn
    exact .inr ⟨a, bs, hlo, by rw [hlen]; exact hhi, hu⟩
  · exact storesData_of_faulted hf

/-- An instruction leaves memory, stores bytes in the data region, or is the ASCII operation, which stores a glyph in its scratch
region (R77, R337). -/
theorem exec_mem_cases {i : Instr} {s t : State} (h : exec i s = .next t) :
    StoresData s t ∨
    ∃ x y p bs, i = .c8eAscii x y ∧ s.cfg.c8e = some p ∧ bs.length = p.asciiRows ∧
      t.mem = (s.storeBytes p.asciiScratch bs).mem := by
  rcases exec_same_or_written h (f := .mem) (by simp) with hm | hw
  · exact .inl (.inl hm)
  rcases written_mem hw with ⟨x, rfl⟩ | ⟨x, rfl⟩ | ⟨x, y, rfl⟩ | ⟨x, y, rfl⟩
  · exact .inl (storesData_of_checked _ h (length_decimalDigits _ _) (by simp) rfl)
  · exact .inl (storesData_of_checked _ h (length_regsUpTo s x) (by simp) (bumpI_mem _ x))
  · rcases next_of_withC8E h with ⟨p, -, h⟩ | hf
    · exact .inl (storesData_of_checked _ h (length_decimalDigits _ _) (by simp) rfl)
    · exact .inl (storesData_of_faulted hf)
  · rcases next_of_withC8E h with ⟨p, hp, h⟩ | hf
    · rcases next_of_operandCheck h with e | hf
      · cases e
        exact .inr ⟨x, y, p, _, rfl, hp, length_asciiGlyph p _, rfl⟩
      · exact .inl (storesData_of_faulted hf)
    · exact .inl (storesData_of_faulted hf)

/-- An instruction keeps the canonical form of memory (R70). -/
theorem exec_mem_wf {i : Instr} {s t : State} (hl : s.cfg.layoutValid = true)
    (hm : Memory.wf s.cfg.memSize s.cfg.initByte s.mem) (h : exec i s = .next t) :
    Memory.wf s.cfg.memSize s.cfg.initByte t.mem := by
  rcases exec_mem_cases h with (e | ⟨a, bs, -, hhi, e⟩) | ⟨x, y, p, bs, -, hp, hlen, e⟩ <;> rw [e]
  · exact hm
  · exact Memory.wf_writeBytes _ _ _ _ _ hm hhi
  · obtain ⟨-, -, ⟨-, hhi, -⟩, -⟩ := layoutValid_tables hl hp
    exact Memory.wf_writeBytes _ _ _ _ _ hm (by have := programBase_le_memSize s.cfg; omega)

/-- Below the program base an instruction changes no byte, or is the ASCII operation and changes its scratch region (R75, R337). -/
theorem exec_byte_below {i : Instr} {s t : State} (hm : s.mem.Pairwise (fun c d => c.1 < d.1)) (h : exec i s = .next t)
    {a : Nat} (ha : a < programBase) :
    t.byte a = s.byte a ∨
    ∃ x y p, i = .c8eAscii x y ∧ s.cfg.c8e = some p ∧ p.asciiScratch ≤ a ∧ a < p.asciiScratch + p.asciiRows := by
  rcases exec_mem_cases h with (e | ⟨b, bs, hlo, -, e⟩) | ⟨x, y, p, bs, hi, hp, hlen, e⟩
  · exact .inl (byte_congr s t e (exec_cfg h) a)
  · refine .inl ?_
    rw [byte_congr _ t e ((exec_cfg h).trans rfl), byte_storeBytes s hm, if_neg (by omega)]
  · by_cases hin : p.asciiScratch ≤ a ∧ a < p.asciiScratch + p.asciiRows
    · exact .inr ⟨x, y, p, hi, hp, hin⟩
    · refine .inl ?_
      rw [byte_congr _ t e ((exec_cfg h).trans rfl), byte_storeBytes s hm, hlen, if_neg hin]

/-! ## The other pieces of the invariant -/

/-- An instruction keeps the depth at most `STACK_MAX` (R35). -/
theorem exec_sp_le {i : Instr} {s t : State} (hsp : s.sp ≤ s.cfg.stackMax) (h : exec i s = .next t) :
    t.sp ≤ s.cfg.stackMax := by
  rcases exec_same_or_written h (f := .sp) (by simp) with e | hw
  · exact e ▸ hsp
  rcases written_sp hw with rfl | ⟨n, rfl⟩
  · change execRet s = .next t at h
    unfold execRet at h
    split at h <;> cases h
    · exact hsp
    · exact (Nat.sub_le _ _).trans hsp
  · change execCall n s = .next t at h
    unfold execCall at h
    split at h <;> cases h
    · exact hsp
    · exact Nat.lt_of_not_le ‹_›

theorem sized_of_faulted {w h : Nat} {s t : State} (hs : Sized w h s.fb) (hf : FaultedFrom s t) : Sized w h t.fb := by
  obtain ⟨code, word, addr, rfl⟩ := hf
  exact hs

/-- A range-checked draw keeps the size of the grid. -/
theorem sized_of_checkedDraw {w h a n wbits : Nat} {x y : Reg} {rows : List Nat} {s t : State} (hs : Sized w h s.fb)
    (he : checked .sprite a n s (drawRows x y rows wbits s) = .next t) : Sized w h t.fb := by
  rcases next_of_checked he with ⟨e, -⟩ | hf
  · cases e; exact sized_gpuDraw _ _ _ _ hs _ _ _ _
  · exact sized_of_faulted hs hf

/-- An instruction keeps the size of the backing grid (R38). -/
theorem exec_gridSized {i : Instr} {s t : State} (hs : s.GridSized) (h : exec i s = .next t) : t.GridSized := by
  rw [gridSized_iff, exec_cfg h]
  rw [gridSized_iff] at hs
  rcases exec_same_or_written h (f := .fb) (by simp) with e | hw
  · exact e ▸ hs
  rcases written_fb hw with rfl | ⟨x, y, n, rfl⟩ | ⟨x, y, rfl⟩ | ⟨n, rfl⟩ | rfl | rfl | rfl | rfl
  · cases h; exact sized_grid _ _ _
  · exact sized_of_checkedDraw hs h
  · change execDrw16 x y s = .next t at h
    unfold execDrw16 at h
    split at h
    · cases h; exact hs
    · split at h <;> exact sized_of_checkedDraw hs h
  · rcases next_of_operandCheck h with e | hf
    · cases e; exact sized_grid _ _ _
    · exact sized_of_faulted hs hf
  · cases h; exact sized_grid _ _ _
  · cases h; exact sized_grid _ _ _
  · cases h; exact sized_blankGrid _ _
  · cases h; exact sized_blankGrid _ _

/-- An instruction keeps the captured start values of both timers positive (R37). -/
theorem exec_timers_positive {i : Instr} {s t : State} (hdt : s.dt.Positive) (hst : s.st.Positive)
    (h : exec i s = .next t) : t.dt.Positive ∧ t.st.Positive := by
  constructor
  · rcases exec_same_or_written h (f := .dt) (by simp) with e | hw
    · exact e ▸ hdt
    rcases written_dt hw with ⟨x, rfl⟩ | ⟨x, rfl⟩ <;> cases h
    · exact timerSet_positive _ _
    · exact timerGet_positive _ _ _ hdt
  · rcases exec_same_or_written h (f := .st) (by simp) with e | hw
    · exact e ▸ hst
    obtain ⟨x, rfl⟩ := written_st hw
    cases h
    exact timerSet_positive _ _

/-- On a machine that is not halted, exactly 00FD halts (R139). -/
theorem exec_halted {i : Instr} {s t : State} (hh : s.halted = false) (h : exec i s = .next t) :
    t.halted = (i == .exit) := by
  by_cases hi : i = .exit
  · subst hi; cases h; rfl
  · rw [same_of_not_written h (f := .halted) (by simp) fun hw => hi (written_halted hw), hh, beq_false_of_ne hi]

/-- An instruction run without a fault leaves a proper record, if any (R402). -/
theorem exec_fault_proper {i : Instr} {s t : State} (hf : s.fault = none) (h : exec i s = .next t) {r : FaultRecord}
    (hr : t.fault = some r) : r.Proper t.pc := by
  rcases exec_cases h with hs | ⟨-, code, addr, rfl, haddr, hcode⟩
  · have e : t.fault = s.fault := hs .fault fault_not_written
    rw [e, hf] at hr
    cases hr
  · cases hr
    exact ⟨rfl, by simp [hcode], haddr⟩

/-! ## The invariant -/

/-- The invariant does not speak of the clock reading, the key set and the host's pending actions. -/
theorem inv_hostData {s : State} (h : s.Inv) (now : Nat) (down : KeySet) (inputs : List (List HostAction)) :
    State.Inv { s with now := now, down := down, inputs := inputs } :=
  ⟨h.cfg, h.mem, h.sp, h.progLo, h.progHi, h.image, h.grid, h.dt, h.st, h.fault, h.halted⟩

/-- Re-initialisation with an image that fits keeps the invariant (R503). -/
theorem inv_reinit {s : State} (h : s.Inv) (image : List Byte) (hi : programBase + image.length ≤ s.cfg.memSize) :
    (State.reinit { s with image := image }).Inv where
  cfg := h.cfg
  mem := wf_reloadMemory s.cfg s.mem image h.mem hi
  sp := Nat.zero_le _
  progLo := Nat.le_add_right _ _
  progHi := hi
  image := hi
  grid := h.grid
  dt := trivial
  st := trivial
  fault := by intro r hr; cases hr
  halted := by intro r hr; cases hr

theorem hostAction_inv (s : State) (a : HostAction) (h : s.Inv) : (s.hostAction a).Inv := by
  rcases hostAction_cases s a with ⟨n, -, e⟩ | ⟨d, -, e⟩ | e | ⟨image, -, hi, e⟩ <;> rw [e]
  · exact inv_hostData h n s.down s.inputs
  · exact inv_hostData h s.now d s.inputs
  · exact h
  · exact inv_reinit h image hi

theorem takeInputs_inv {s : State} (h : s.Inv) : s.takeInputs.Inv :=
  takeInputs_induction State.Inv (fun s r h => inv_hostData h s.now s.down r) hostAction_inv s h

theorem inv_advance {s : State} (h : s.Inv) (hf : s.fault = none) : s.advance.Inv :=
  ⟨h.cfg, h.mem, h.sp, h.progLo, h.progHi, h.image, h.grid, h.dt, h.st, by intro r hr; simp [hf] at hr,
    by intro r hr; cases hr⟩

/-- Taking a fault with a proper record and no step result keeps the invariant (R402). -/
theorem inv_takeFault {s : State} (h : s.Inv) (hres : s.result = none) (code : FaultCode) (w : Option Word)
    (addr : Option Nat) (hw : w = none ↔ code = .fetchRange) (ha : addr = none ↔ code ≠ .memRange) :
    (s.takeFault code w addr).Inv :=
  ⟨h.cfg, h.mem, h.sp, h.progLo, h.progHi, h.image, h.grid, h.dt, h.st,
    by rintro r ⟨⟩; exact ⟨⟨rfl, hw, ha⟩, hres⟩, by intro r hr; simp [hres] at hr⟩

/-- An instruction run on a machine without a fault and a result keeps the invariant. -/
theorem exec_inv {i : Instr} {s t : State} (hs : s.Inv) (hf : s.fault = none) (hres : s.result = none)
    (h : exec i s = .next t) : t.Inv ∧ t.result = none := by
  obtain ⟨-, -, hend, himage, -, -, hresult⟩ := not_written (c := s.cfg) (i := i)
  have ecfg : t.cfg = s.cfg := exec_cfg h
  have eend : t.progEnd = s.progEnd := same_of_not_written h (f := .progEnd) (by simp) hend
  have eimage : t.image = s.image := same_of_not_written h (f := .image) (by simp) himage
  have eresult : t.result = none := hres ▸ same_of_not_written h (f := .result) (by simp) hresult
  obtain ⟨hdt, hst⟩ := exec_timers_positive hs.dt hs.st h
  refine ⟨?_, eresult⟩
  constructor
  case cfg => exact ecfg ▸ hs.cfg
  case mem => exact ecfg ▸ exec_mem_wf hs.cfg.layout hs.mem h
  case sp => exact ecfg ▸ exec_sp_le hs.sp h
  case progLo => exact eend ▸ hs.progLo
  case progHi => exact ecfg ▸ eend ▸ hs.progHi
  case image => exact ecfg ▸ eimage ▸ hs.image
  case grid => exact exec_gridSized hs.grid h
  case dt => exact hdt
  case st => exact hst
  case fault => exact fun r hr => ⟨exec_fault_proper hf h hr, eresult⟩
  case halted => intro r hr; simp [eresult] at hr

/-- Recording the step result keeps the invariant, where an exit is requested exactly if the machine is halted (R137, R139). -/
theorem finish_inv {i : Instr} {s : State} (h : s.Inv) (hh : s.halted = (i == .exit)) : (s.finish i).Inv := by
  cases hf : s.fault with
  | some r => rwa [finish_of_fault i s r hf]
  | none =>
    rw [finish_of_none i s hf]
    exact ⟨h.cfg, h.mem, h.sp, h.progLo, h.progHi, h.image, h.grid, h.dt, h.st, by intro r hr; simp [hf] at hr,
      by rintro r ⟨⟩; exact hh.symm⟩

theorem cpuStep_inv {s t : State} (hs : s.Inv) (h : cpuStep s = .next t) : t.Inv := by
  obtain ⟨hf, hh, hcase⟩ := cpuStep_cases s t h
  have ha := inv_advance hs hf
  rcases hcase with ⟨-, rfl⟩ | ⟨-, e, -, rfl⟩ | ⟨-, i, -, u, hu, rfl⟩
  · exact inv_takeFault ha rfl _ _ _ (by simp) (by simp)
  · exact inv_takeFault ha rfl _ _ _ (by simp) (by simp)
  · exact finish_inv (exec_inv ha hf rfl hu).1 (exec_halted (s := s.advance) hh hu)

/-- Settles O13: the host's actions keep the invariant, and so does the Cpu's step, piece by piece. -/
theorem invariantKeptByStep : Obligations.InvariantKeptByStep :=
  fun _ _ hs h => cpuStep_inv (takeInputs_inv hs) h

/-! ## Bytes below the program base -/

theorem hostAction_cfg (s : State) (a : HostAction) : (s.hostAction a).cfg = s.cfg := by
  rcases hostAction_cases s a with ⟨n, -, e⟩ | ⟨d, -, e⟩ | e | ⟨image, -, -, e⟩ <;> rw [e]
  rfl

/-- No host action changes a byte below the program base (R503). -/
theorem hostAction_byte_below (s : State) (a : HostAction) {x : Nat} (hx : x < programBase) :
    (s.hostAction a).byte x = s.byte x := by
  rcases hostAction_cases s a with ⟨n, -, e⟩ | ⟨d, -, e⟩ | e | ⟨image, -, -, e⟩ <;> rw [e]
  · rfl
  · rfl
  · rw [byte_reinit, if_pos hx]; rfl

/-- The host's actions before a step keep the configuration and every byte below the program base. -/
theorem takeInputs_below (s : State) :
    s.takeInputs.cfg = s.cfg ∧ ∀ x, x < programBase → s.takeInputs.byte x = s.byte x :=
  takeInputs_induction (fun u => u.cfg = s.cfg ∧ ∀ x, x < programBase → u.byte x = s.byte x) (fun _ _ h => h)
    (fun u a ⟨hc, hb⟩ => ⟨(hostAction_cfg u a).trans hc, fun x hx => (hostAction_byte_below u a hx).trans (hb x hx)⟩) s
    ⟨rfl, fun _ _ => rfl⟩

theorem finish_byte (i : Instr) (s : State) (a : Nat) : (s.finish i).byte a = s.byte a := by rw [finish_eq]; rfl

/-- The Cpu's step changes no byte below the program base outside the scratch region. -/
theorem cpuStep_byte_below {s t : State} (hs : s.Inv) (h : cpuStep s = .next t) {a : Nat} (ha : a < programBase)
    (hscratch : ∀ p, s.cfg.c8e = some p → ¬ (p.asciiScratch ≤ a ∧ a < p.asciiScratch + p.asciiRows)) :
    t.byte a = s.byte a := by
  obtain ⟨-, -, ⟨-, rfl⟩ | ⟨-, e, -, rfl⟩ | ⟨-, i, -, u, hu, rfl⟩⟩ := cpuStep_cases s t h
  · rfl
  · rfl
  · rw [finish_byte]
    rcases exec_byte_below (s := s.advance) hs.mem.1 hu ha with e | ⟨x, y, p, -, hp, hin⟩
    · exact e
    · exact absurd hin (hscratch p hp)

/-- Settles O17: data stores start at the program base or above, and only the ASCII operation stores elsewhere, in its scratch
region. -/
theorem bytesBelowProgramBaseKept : Obligations.BytesBelowProgramBaseKept := by
  refine ⟨fun s t hs h a ha hscratch => ?_, fun i s t hs h hi a ha => ?_⟩
  · obtain ⟨hc, hb⟩ := takeInputs_below s
    exact (cpuStep_byte_below (takeInputs_inv hs) h ha (hc ▸ hscratch)).trans (hb a ha)
  · exact (exec_byte_below hs.mem.1 h ha).resolve_right fun ⟨x, y, _, hi', _⟩ => hi ⟨x, y, hi'⟩

end Sys2Proof.Machine
end

section
/-! PROOF. What no step reads: the key hints (O18) and the sound timer (O19). -/

namespace Sys2Proof.Machine

/-! ## Two runs -/

/-- The state with other key hints and another sound timer: the two pieces of state that execution never reads (R37, R43). -/
def State.withUnread (s : State) (h : KeySet) (c : TimerCapture) : State := { s with hints := h, st := c }

/-- The outcome with its next state, if any, changed by `f`. -/
def onNext (f : State → State) : Result → Result
  | .next t => .next (f t)
  | .fault r => .fault r
  | .refused r => .refused r

/-- The meaning reads neither the hints nor the sound timer: run with others, it has the same outcome, but for hints that depend only
on the other hints and a sound timer that depends only on the other sound timer. -/
def Blind (m : State → Result) (s : State) : Prop :=
  ∃ (gh : KeySet → KeySet) (gs : TimerCapture → TimerCapture),
    ∀ h c, m (s.withUnread h c) = onNext (fun t => t.withUnread (gh h) (gs c)) (m s)

theorem withUnread_self (s : State) : s.withUnread s.hints s.st = s := rfl

@[simp] theorem withUnread_i (s : State) (h : KeySet) (c : TimerCapture) : (s.withUnread h c).i = s.i := rfl
@[simp] theorem withUnread_cfg (s : State) (h : KeySet) (c : TimerCapture) : (s.withUnread h c).cfg = s.cfg := rfl
@[simp] theorem withUnread_fault (s : State) (h : KeySet) (c : TimerCapture) : (s.withUnread h c).fault = s.fault := rfl
@[simp] theorem withUnread_down (s : State) (h : KeySet) (c : TimerCapture) : (s.withUnread h c).down = s.down := rfl
@[simp] theorem withUnread_armed (s : State) (h : KeySet) (c : TimerCapture) : (s.withUnread h c).armed = s.armed := rfl

theorem byte_withUnread (s : State) (h : KeySet) (c : TimerCapture) (a : Nat) :
    (s.withUnread h c).byte a = s.byte a := rfl

@[simp] theorem fetchWord_withUnread (s : State) (h : KeySet) (c : TimerCapture) :
    fetchWord (s.withUnread h c) = fetchWord s := rfl

theorem bytes_withUnread (s : State) (h : KeySet) (c : TimerCapture) (n : Nat) : ∀ a,
    (s.withUnread h c).bytes a n = s.bytes a n := by
  induction n with
  | zero => intro a; rfl
  | succ n ih => intro a; rw [State.bytes, State.bytes, ih, byte_withUnread]

theorem rows16_withUnread (s : State) (h : KeySet) (c : TimerCapture) (n : Nat) : ∀ a,
    (s.withUnread h c).rows16 a n = s.rows16 a n := by
  induction n with
  | zero => intro a; rfl
  | succ n ih => intro a; rw [State.rows16, State.rows16, ih]; rfl

theorem skipIf_withUnread (s : State) (b : Bool) (h : KeySet) (c : TimerCapture) :
    (s.withUnread h c).skipIf b = (s.skipIf b).withUnread h c := by
  cases b <;> rfl

theorem setRegLogic_withUnread (s : State) (x : Reg) (b : Byte) (h : KeySet) (c : TimerCapture) :
    (s.withUnread h c).setRegLogic x b = (s.setRegLogic x b).withUnread h c := by
  unfold State.setRegLogic
  rw [withUnread_cfg]
  cases s.cfg.profile <;> rfl

theorem bumpI_withUnread (s : State) (x : Reg) (h : KeySet) (c : TimerCapture) :
    (s.withUnread h c).bumpI x = (s.bumpI x).withUnread h c := by
  unfold State.bumpI
  rw [withUnread_cfg]
  cases s.cfg.profile <;> rfl

/-! ## What is blind -/

section
variable {s : State}

/-- A meaning is blind if, whatever the hints and the sound timer are, it acts on the state as a blind one does. -/
theorem Blind.congr {m m' : State → Result} (hm : Blind m' s)
    (e : ∀ h c, m (s.withUnread h c) = m' (s.withUnread h c)) : Blind m s := by
  obtain ⟨gh, gs, hg⟩ := hm
  refine ⟨gh, gs, fun h c => ?_⟩
  rw [e h c, hg h c, ← withUnread_self s, e s.hints s.st]

/-- An update that commutes with a change of the hints and the sound timer. -/
theorem blind_next {g : State → State} (hg : ∀ h c, g (s.withUnread h c) = (g s).withUnread h c) :
    Blind (fun u => .next (g u)) s :=
  ⟨id, id, fun h c => congrArg Host.Outcome.next (hg h c)⟩

theorem blind_raise (code : FaultCode) (addr : Option Nat) : Blind (raise code addr) s := blind_next fun _ _ => rfl

theorem blind_skipIf {b : State → Bool} (hb : ∀ h c, b (s.withUnread h c) = b s) :
    Blind (fun u => .next (u.skipIf (b u))) s :=
  blind_next fun h c => by rw [hb, skipIf_withUnread]

theorem blind_setRegLogic (x : Reg) {b : State → Byte} (hb : ∀ h c, b (s.withUnread h c) = b s) :
    Blind (fun u => .next (u.setRegLogic x (b u))) s :=
  blind_next fun h c => by rw [hb, setRegLogic_withUnread]

theorem blind_ite {p : State → Prop} [DecidablePred p] {k k' : State → Result}
    (hp : ∀ h c, p (s.withUnread h c) ↔ p s) (hk : p s → Blind k s) (hk' : ¬ p s → Blind k' s) :
    Blind (fun u => if p u then k u else k' u) s := by
  by_cases h : p s
  · exact (hk h).congr fun h' c => if_pos ((hp h' c).mpr h)
  · exact (hk' h).congr fun h' c => if_neg (mt (hp h' c).mp h)

theorem blind_operandCheck {ok : State → Bool} {k : State → Result} (hok : ∀ h c, ok (s.withUnread h c) = ok s)
    (hk : Blind k s) : Blind (fun u => operandCheck (ok u) u (k u)) s :=
  blind_ite (fun h c => by rw [hok]) (fun _ => hk) (fun _ => blind_raise _ _)

theorem blind_checked (r : Region) (n : Nat) {k : State → Result} (hk : Blind k s) :
    Blind (fun u => checked r u.i.toNat n u (k u)) s := by
  cases hout : firstOutside r.lo s.cfg.memSize s.i.toNat n with
  | none => exact hk.congr fun h c => by simp [checked, hout]
  | some bad => exact (blind_raise .memRange (some bad)).congr fun h c => by simp [checked, hout]

theorem blind_withC8E {k : C8E → State → Result} (hk : ∀ p, Blind (k p) s) :
    Blind (fun u => withC8E u fun p => k p u) s := by
  cases hc : s.cfg.c8e with
  | none => exact (blind_raise .decode none).congr fun h c => by simp [withC8E, hc]
  | some p => exact (hk p).congr fun h c => by simp [withC8E, hc]

theorem blind_drawRows (x y : Reg) (n : Nat) {rows : State → List Nat}
    (hr : ∀ h c, rows (s.withUnread h c) = rows s) : Blind (fun u => drawRows x y (rows u) n u) s :=
  ⟨id, id, fun h c => by dsimp only; rw [hr]; rfl⟩

theorem blind_rows8 (x y : Reg) (n : Nat) : Blind (fun u => drawRows x y (u.rows8 u.i.toNat n) 8 u) s :=
  blind_drawRows x y 8 fun h c => by unfold State.rows8; rw [bytes_withUnread]; rfl

theorem blind_drw16 (x y : Reg) : Blind (execDrw16 x y) s := by
  cases hp : s.cfg.profile with
  | vip => exact (blind_raise .profile none).congr fun h c => by simp [execDrw16, hp]
  | sChip =>
    have hb : Blind (fun u : State => if u.hires = true then
        checked .sprite u.i.toNat 32 u (drawRows x y (u.rows16 u.i.toNat 16) 16 u)
      else checked .sprite u.i.toNat 16 u (drawRows x y (u.rows8 u.i.toNat 16) 8 u)) s :=
      blind_ite (fun _ _ => Iff.rfl)
        (fun _ => blind_checked _ _ (blind_drawRows x y 16 fun h c => rows16_withUnread s h c 16 _))
        (fun _ => blind_checked _ _ (blind_rows8 x y 16))
    exact hb.congr fun h c => by simp only [execDrw16, withUnread_cfg, hp]

/-- The key skips insert their key into the hints and read other state only. -/
theorem blind_withKey (x : Reg) (b : Nibble → KeySet → Bool) :
    Blind (fun u => withKey x u fun key t => .next (t.skipIf (b key t.down))) s :=
  blind_operandCheck (fun _ _ => rfl)
    ⟨fun h => h.insert ((s.reg x).setWidth 4), id, fun _ _ =>
      congrArg Host.Outcome.next (skipIf_withUnread { s with hints := s.hints.insert ((s.reg x).setWidth 4) } _ _ _)⟩

theorem blind_ldVxK (x : Reg) : Blind (execLdVxK x) s := by
  refine ⟨id, id, fun h c => ?_⟩
  unfold execLdVxK
  dsimp only
  rw [withUnread_down, withUnread_armed]
  cases (keypadQuery s.down s.armed).2 <;> rfl

theorem blind_c8eOp6 (x y : Reg) : Blind (execC8eOp6 x y) s := by
  refine blind_withC8E fun p => ?_
  cases hop : p.op6 with
  | none => exact blind_raise _ _
  | some op =>
    cases hm : op.meaning with
    | signedSkip rel => simpa only [hm] using blind_skipIf fun h c => rfl
    | other => 
      simpa only [hm] using blind_next fun h c =>
        skipIf_withUnread { s with v := (Config.c8eOp6 s.v s.i x y).v, i := (Config.c8eOp6 s.v s.i x y).i } _ h c

end

/-- No instruction reads the hints or the sound timer. -/
theorem exec_blind (i : Instr) (s : State) : Blind (exec i) s := by
  cases i with
  | sys nnn => exact blind_next fun _ _ => rfl
  | cls => exact blind_next fun _ _ => rfl
  | ret => exact blind_ite (fun _ _ => Iff.rfl) (fun _ => blind_raise _ _) (fun _ => blind_next fun _ _ => rfl)
  | jp nnn => exact blind_next fun _ _ => rfl
  | call nnn => exact blind_ite (fun _ _ => Iff.rfl) (fun _ => blind_raise _ _) (fun _ => blind_next fun _ _ => rfl)
  | seVxNn x nn => exact blind_skipIf fun _ _ => rfl
  | sneVxNn x nn => exact blind_skipIf fun _ _ => rfl
  | seVxVy x y => exact blind_skipIf fun _ _ => rfl
  | sneVxVy x y => exact blind_skipIf fun _ _ => rfl
  | jpV0 nnn => exact blind_next fun _ _ => rfl
  | ldVxNn x nn => exact blind_next fun _ _ => rfl
  | addVxNn x nn => exact blind_next fun _ _ => rfl
  | ldVxVy x y => exact blind_next fun _ _ => rfl
  | or x y => exact blind_setRegLogic x fun _ _ => rfl
  | and x y => exact blind_setRegLogic x fun _ _ => rfl
  | xor x y => exact blind_setRegLogic x fun _ _ => rfl
  | addVxVy x y => exact blind_next fun _ _ => rfl
  | sub x y => exact blind_next fun _ _ => rfl
  | shr x y => exact blind_next fun _ _ => rfl
  | subn x y => exact blind_next fun _ _ => rfl
  | shl x y => exact blind_next fun _ _ => rfl
  | ldI nnn => exact blind_next fun _ _ => rfl
  | addIVx x => exact blind_next fun _ _ => rfl
  | ldF x => exact blind_operandCheck (fun _ _ => rfl) (blind_next fun _ _ => rfl)
  | ldHf x => exact blind_operandCheck (fun _ _ => rfl) (blind_next fun _ _ => rfl)
  | rnd x nn => exact blind_next fun _ _ => rfl
  | drw x y n => exact blind_checked _ _ (blind_rows8 x y n.toNat)
  | drw16 x y => exact blind_drw16 x y
  | skp x => exact blind_withKey x fun key down => down.has key
  | sknp x => exact blind_withKey x fun key down => !down.has key
  | ldVxDt x => exact blind_next fun _ _ => rfl
  | ldVxK x => exact blind_ldVxK x
  | ldDtVx x => exact blind_next fun _ _ => rfl
  | ldStVx x => exact ⟨id, fun _ => timerSet (s.reg x) s.now, fun _ _ => rfl⟩
  | ldB x => exact blind_checked _ _ (blind_next fun _ _ => rfl)
  | ldMiVx x => exact blind_checked _ _ (blind_next fun h c => bumpI_withUnread (s.storeBytes _ _) x h c)
  | ldVxMi x =>
    refine blind_checked _ _ (blind_next fun h c => ?_)
    rw [bytes_withUnread]
    exact bumpI_withUnread { s with v := _ } x h c
  | scd n => exact blind_operandCheck (fun _ _ => rfl) (blind_next fun _ _ => rfl)
  | scr => exact blind_next fun _ _ => rfl
  | scl => exact blind_next fun _ _ => rfl
  | exit => exact blind_next fun _ _ => rfl
  | low => exact blind_next fun _ _ => rfl
  | high => exact blind_next fun _ _ => rfl
  | ldRVx x => exact blind_operandCheck (fun _ _ => rfl) (blind_next fun _ _ => rfl)
  | ldVxR x => exact blind_operandCheck (fun _ _ => rfl) (blind_next fun _ _ => rfl)
  | c8eSks x y => exact blind_withC8E fun p => blind_skipIf fun _ _ => rfl
  | c8eMul x y => exact blind_withC8E fun p => blind_next fun _ _ => rfl
  | c8eDiv x y =>
    exact blind_withC8E fun p =>
      blind_ite (fun _ _ => Iff.rfl) (fun _ => blind_raise _ _) (fun _ => blind_next fun _ _ => rfl)
  | c8eBcd16 x y => exact blind_withC8E fun p => blind_checked _ _ (blind_next fun _ _ => rfl)
  | c8eAscii x y => exact blind_withC8E fun p => blind_operandCheck (fun _ _ => rfl) (blind_next fun _ _ => rfl)
  | c8eOp6 x y => exact blind_c8eOp6 x y

/-! ## The step -/

theorem finish_withUnread (i : Instr) (s : State) (h : KeySet) (c : TimerCapture) :
    (s.withUnread h c).finish i = (s.finish i).withUnread h c := by
  unfold State.finish
  rw [withUnread_fault]
  cases s.fault <;> rfl

theorem finish_onNext (i : Instr) (r : Result) (h : KeySet) (c : TimerCapture) :
    finish i (onNext (fun t => t.withUnread h c) r) = onNext (fun t => t.withUnread h c) (finish i r) := by
  cases r with
  | next t => exact congrArg Host.Outcome.next (finish_withUnread i t h c)
  | fault f => rfl
  | refused r => rfl

theorem runFetched_blind (s : State) : Blind runFetched s := by
  cases hd : decode s.cfg (fetchWord s) with
  | error e =>
    have hb : Blind (fun u => .next (u.takeFault .decode (some (fetchWord u)) none)) s := blind_next fun _ _ => rfl
    exact hb.congr fun h c => by simp [runFetched, hd]
  | ok i =>
    obtain ⟨gh, gs, hg⟩ := exec_blind i s
    have hb : Blind (fun u => finish i (exec i u)) s :=
      ⟨gh, gs, fun h c => by dsimp only; rw [hg, finish_onNext]⟩
    exact hb.congr fun h c => by simp [runFetched, hd]

theorem cpuStep_blind (s : State) : Blind cpuStep s := by
  refine blind_ite (fun _ _ => Iff.rfl) (fun _ => ⟨id, id, fun _ _ => rfl⟩) fun _ => ?_
  refine blind_ite (fun _ _ => Iff.rfl) (fun _ => ⟨id, id, fun _ _ => rfl⟩) fun _ => ?_
  have hb : Blind runAdvanced s.advance :=
    blind_ite (fun _ _ => Iff.rfl) (fun _ => blind_next fun _ _ => rfl) fun _ => runFetched_blind _
  exact hb

theorem reload_withUnread (s : State) (h : KeySet) (c : TimerCapture) :
    (s.withUnread h c).reload = s.reload.map fun t => t.withUnread h .idle := by
  have e : (s.withUnread h c).image = s.image := rfl
  unfold State.reload
  rw [e, withUnread_cfg]
  split_ifs <;> rfl

/-- Loading the image of `u` neither reads the hints and the sound timer nor writes the hints; where it succeeds it makes the sound
timer idle (R503). -/
theorem orKept_reload_withUnread (s u : State) : ∃ gs : TimerCapture → TimerCapture, ∀ h c,
    (s.withUnread h c).orKept (u.withUnread h c).reload = (s.orKept u.reload).withUnread h (gs c) := by
  cases hr : u.reload with
  | error e => exact ⟨id, fun h c => by rw [reload_withUnread, hr]; rfl⟩
  | ok t => exact ⟨fun _ => .idle, fun h c => by rw [reload_withUnread, hr]; rfl⟩

theorem hostAction_withUnread (s : State) (a : HostAction) : ∃ gs : TimerCapture → TimerCapture,
    ∀ h c, (s.withUnread h c).hostAction a = (s.hostAction a).withUnread h (gs c) := by
  cases a with
  | clock now => exact ⟨id, fun _ _ => rfl⟩
  | keys down => exact ⟨id, fun _ _ => rfl⟩
  | load rom => exact orKept_reload_withUnread s { s with image := rom }
  | reload => exact orKept_reload_withUnread s s

theorem hostActions_withUnread (as : List HostAction) : ∀ s : State, ∃ gs : TimerCapture → TimerCapture,
    ∀ h c, (s.withUnread h c).hostActions as = (s.hostActions as).withUnread h (gs c) := by
  induction as with
  | nil => intro s; exact ⟨id, fun _ _ => rfl⟩
  | cons a as ih =>
    intro s
    obtain ⟨gs, hgs⟩ := hostAction_withUnread s a
    obtain ⟨gs', hgs'⟩ := ih (s.hostAction a)
    exact ⟨gs' ∘ gs, fun h c => by rw [State.hostActions, hgs, hgs']; rfl⟩

theorem takeInputs_withUnread (s : State) : ∃ gs : TimerCapture → TimerCapture,
    ∀ h c, (s.withUnread h c).takeInputs = s.takeInputs.withUnread h (gs c) := by
  unfold State.takeInputs
  cases hin : s.inputs with
  | nil => exact ⟨id, fun h c => by rw [show (s.withUnread h c).inputs = [] from hin]; rfl⟩
  | cons batch rest =>
    obtain ⟨gs, hgs⟩ := hostActions_withUnread batch { s with inputs := rest }
    exact ⟨gs, fun h c => by rw [show (s.withUnread h c).inputs = batch :: rest from hin]; exact hgs h c⟩

/-- No step reads the hints or the sound timer. -/
theorem step_blind (s : State) : Blind step s := by
  obtain ⟨gs, hgs⟩ := takeInputs_withUnread s
  obtain ⟨gh, gs', hg⟩ := cpuStep_blind s.takeInputs
  exact ⟨gh, gs' ∘ gs, fun h c => by rw [step_eq, step_eq, hgs, hg]; rfl⟩

/-- Two runs of a blind meaning: where the one completes, so does the other, and the two functions give the hints and the sound timer
of both next states. -/
theorem Blind.of_next {m : State → Result} {s t : State} (hb : Blind m s) (h : m s = .next t) :
    ∃ (gh : KeySet → KeySet) (gs : TimerCapture → TimerCapture), gh s.hints = t.hints ∧ gs s.st = t.st ∧
      ∀ h c, m (s.withUnread h c) = .next (t.withUnread (gh h) (gs c)) := by
  obtain ⟨gh, gs, hg⟩ := hb
  have hself : t = t.withUnread (gh s.hints) (gs s.st) := by
    have := hg s.hints s.st
    rw [withUnread_self, h] at this
    exact Host.Outcome.next.inj this
  exact ⟨gh, gs, (congrArg State.hints hself).symm, (congrArg State.st hself).symm, fun h' c => by rw [hg, h]; rfl⟩

theorem Blind.of_fault {m : State → Result} {s : State} {f : Fault} (hb : Blind m s) (h : m s = .fault f)
    (h' : KeySet) (c : TimerCapture) : m (s.withUnread h' c) = .fault f := by
  obtain ⟨gh, gs, hg⟩ := hb
  rw [hg, h]
  rfl

/-- Settles O18: two runs of the blind step that differ in the hints alone. -/
theorem hintsNeverAffectExecution : Obligations.HintsNeverAffectExecution := by
  refine fun s h => ⟨fun t ht => ?_, fun f hf => (step_blind s).of_fault hf h s.st⟩
  obtain ⟨gh, gs, -, hst, hg⟩ := (step_blind s).of_next ht
  refine ⟨gh h, (hg h s.st).trans ?_⟩
  rw [hst]
  rfl

/-- Settles O19: two runs of the blind step that differ in the sound timer alone. -/
theorem soundTimerNeverReadByExecution : Obligations.SoundTimerNeverReadByExecution := by
  refine fun s c => ⟨fun t ht => ?_, fun f hf => (step_blind s).of_fault hf s.hints c⟩
  obtain ⟨gh, gs, hhints, -, hg⟩ := (step_blind s).of_next ht
  refine ⟨gs c, (hg s.hints c).trans ?_⟩
  rw [hhints]
  rfl

end Sys2Proof.Machine
end

section
/-! PROOF. The machine at construction: O57 and O58. -/

namespace Sys2Proof.Machine

/-! ## Decoding without CHIP-8E -/

theorem decode0_not_c8e (w : Word) : ¬ IsC8E (decode0 w) := by
  unfold decode0
  split_ifs <;> exact id

/-- The answer of a decoder is no CHIP-8E instruction. -/
def NoC8E (r : Except Reject Instr) : Prop := ∀ i, r = .ok i → ¬ IsC8E i

theorem noC8E_ok {i : Instr} (h : ¬ IsC8E i) : NoC8E (.ok i) := by rintro _ ⟨⟩; exact h

theorem noC8E_error (e : Reject) : NoC8E (.error e) := by rintro _ ⟨⟩

/-- One row of a decoder: it gives this instruction, or the later rows answer. -/
theorem noC8E_row {p : Prop} [Decidable p] {i : Instr} {r : Except Reject Instr} (hi : ¬ IsC8E i) (hr : NoC8E r) :
    NoC8E (if p then .ok i else r) := by
  split
  · exact noC8E_ok hi
  · exact hr

theorem noC8E_decode8 (x y : Reg) (n : Nibble) : NoC8E (decode8 x y n) := by
  unfold decode8
  iterate 9 refine noC8E_row id ?_
  exact noC8E_error _

theorem noC8E_decodeE (x : Reg) (nn : Byte) : NoC8E (decodeE x nn) :=
  noC8E_row id (noC8E_row id (noC8E_error _))

theorem noC8E_decodeF (x : Reg) (nn : Byte) : NoC8E (decodeF x nn) := by
  unfold decodeF
  iterate 12 refine noC8E_row id ?_
  exact noC8E_error _

/-- The baseline and SUPER-CHIP rows give no CHIP-8E instruction (R104). -/
theorem noC8E_decodeBase (w : Word) : NoC8E (decodeBase w) := by
  unfold decodeBase
  dsimp only
  split
  case h_1 => exact noC8E_ok (decode0_not_c8e w)
  case h_9 => exact noC8E_decode8 _ _ _
  case h_15 => exact noC8E_decodeE _ _
  case h_16 => exact noC8E_decodeF _ _
  case h_6 | h_10 => exact noC8E_row id (noC8E_error _)
  case h_14 => exact noC8E_row id (noC8E_ok id)
  all_goals exact noC8E_ok id

/-- Without the family the decoder is that of the other two (R104, R330). -/
theorem decode_of_disabled {c : Config} (hc : c.c8e = none) (w : Word) : decode c w = decodeBase w := by
  unfold decode
  rw [hc]
  cases decodeBase w <;> rfl

/-! ## The construction contents of memory -/

section
variable {c : Config}

theorem byte_powerOn (c : Config) (a : Nat) : (State.powerOn c).byte a = c.initByte a := rfl

theorem initByte_fontLo (h : c.layoutValid = true) {k : Nat} (hk : k < 80) :
    c.initByte (c.fontLoBase + k) = c.fontLo.getD k 0#8 := by
  obtain ⟨-, -, hlo, -, -⟩ := layoutValid_fonts h
  unfold Config.initByte
  rw [if_neg (by omega), if_pos (by omega), Nat.add_sub_cancel_left]

theorem initByte_fontHi (h : c.layoutValid = true) {k : Nat} (hk : k < 160) :
    c.initByte (c.fontHiBase + k) = c.fontHiByte k := by
  obtain ⟨-, -, -, hhi, hapart⟩ := layoutValid_fonts h
  unfold Config.initByte
  rw [if_neg (by omega), if_neg (by omega), if_pos (by omega), Nat.add_sub_cancel_left]

/-- An address outside both fonts. -/
def OutsideFonts (c : Config) (a : Nat) : Prop :=
  (a < c.fontLoBase ∨ c.fontLoBase + 80 ≤ a) ∧ (a < c.fontHiBase ∨ c.fontHiBase + 160 ≤ a)

theorem initByte_outside_disabled (hc : c.c8e = none) {a : Nat} (ha : OutsideFonts c a) : c.initByte a = 0#8 := by
  unfold OutsideFonts at ha
  unfold Config.initByte
  split_ifs
  · rfl
  · omega
  · omega
  · rw [hc]

theorem initByte_outside_enabled {p : C8E} (hc : c.c8e = some p) {a : Nat} (ha : OutsideFonts c a)
    (hlow : a < programBase) : c.initByte a = p.tableByte a := by
  unfold OutsideFonts at ha
  unfold Config.initByte
  rw [if_neg (by omega), if_neg (by omega), if_neg (by omega), hc]

theorem fontHiByte_digit (c : Config) {k : Nat} (hk : k < 100) : c.fontHiByte k = c.fontHi.getD k 0#8 := if_pos hk

theorem fontHiByte_disabled (hc : c.c8e = none) {k : Nat} (hk : 100 ≤ k) : c.fontHiByte k = 0#8 := by
  unfold Config.fontHiByte
  rw [if_neg (by omega), hc]

theorem fontHiByte_enabled {p : C8E} (hc : c.c8e = some p) (k : Nat) :
    c.fontHiByte (100 + k) = p.fontHiExt.getD k 0#8 := by
  unfold Config.fontHiByte
  rw [if_neg (by omega), hc]
  exact congrArg (p.fontHiExt.getD · 0#8) (Nat.add_sub_cancel_left _ _)

/-- A byte of the pattern table (R337). -/
theorem initByte_patterns (h : c.layoutValid = true) {p : C8E} (hc : c.c8e = some p) {k : Nat}
    (hk : k < p.asciiPatterns.length) : c.initByte (p.asciiPatBase + k) = p.asciiPatterns.getD k 0#8 := by
  obtain ⟨⟨-, hend, hlo, hhi⟩, -⟩ := layoutValid_tables h hc
  rw [initByte_outside_enabled hc (by unfold OutsideFonts; omega) (by omega), C8E.tableByte, if_pos (by omega),
    Nat.add_sub_cancel_left]

/-- A byte of the index table (R337). -/
theorem initByte_index (h : c.layoutValid = true) {p : C8E} (hc : c.c8e = some p) {k : Nat}
    (hk : k < p.asciiIndex.length) : c.initByte (p.asciiIdxBase + k) = p.asciiIndex.getD k 0#8 := by
  obtain ⟨-, ⟨-, hend, hlo, hhi⟩, -, hapart, -⟩ := layoutValid_tables h hc
  rw [initByte_outside_enabled hc (by unfold OutsideFonts; omega) (by omega), C8E.tableByte, if_neg (by omega),
    if_pos (by omega), Nat.add_sub_cancel_left]

/-- Every byte outside the fonts and the tables is 0 (R500). -/
theorem initByte_zero {a : Nat} (ha : OutsideFonts c a)
    (htab : ∀ p, c.c8e = some p → (a < p.asciiPatBase ∨ p.asciiPatBase + p.asciiPatterns.length ≤ a) ∧
      (a < p.asciiIdxBase ∨ p.asciiIdxBase + p.asciiIndex.length ≤ a)) : c.initByte a = 0#8 := by
  cases hc : c.c8e with
  | none => exact initByte_outside_disabled hc ha
  | some p =>
    obtain ⟨hpat, hidx⟩ := htab p hc
    by_cases hlow : a < programBase
    · rw [initByte_outside_enabled hc ha hlow, C8E.tableByte, if_neg (by omega), if_neg (by omega)]
    · exact initByte_high c a (by omega)

theorem some_getD (bs : List Byte) {k : Nat} (hk : k < bs.length) : some (bs.getD k 0#8) = bs[k]? := by
  simp [hk]

/-- The construction contents of memory, in the form of R500. -/
theorem powerOn_memory (h : c.layoutValid = true) :
    (∀ k, k < 80 → some ((State.powerOn c).byte (c.fontLoBase + k)) = c.fontLo[k]?) ∧
    (∀ k, k < 100 → some ((State.powerOn c).byte (c.fontHiBase + k)) = c.fontHi[k]?) ∧
    (c.c8e = none → ∀ k, 100 ≤ k → k < 160 → (State.powerOn c).byte (c.fontHiBase + k) = 0#8) := by
  obtain ⟨hlo, hhi, -⟩ := layoutValid_fonts h
  refine ⟨fun k hk => ?_, fun k hk => ?_, fun hc k hk hk' => ?_⟩
  · rw [byte_powerOn, initByte_fontLo h hk]
    exact some_getD _ (hlo ▸ hk)
  · rw [byte_powerOn, initByte_fontHi h (by omega), fontHiByte_digit c hk]
    exact some_getD _ (hhi ▸ hk)
  · rw [byte_powerOn, initByte_fontHi h hk', fontHiByte_disabled hc hk]

end

/-- Settles O57: decoding is that of the other families, and without tables a byte outside the digits of the fonts is 0. -/
theorem c8eDisabled : Obligations.C8eDisabled := by
  intro c hc hl
  refine ⟨fun w i h => ?_, fun w e h => ?_, (powerOn_memory hl).2.2 hc, fun a hlo hhi => ?_⟩
  · exact noC8E_decodeBase w i ((decode_of_disabled hc w).symm.trans h)
  · exact (decode_of_disabled hc w).trans h
  · exact initByte_outside_disabled hc ⟨hlo, hhi⟩

/-- The CHIP-8E tables at construction, in the form of R500. -/
theorem powerOn_tables {c : Config} (h : c.layoutValid = true) {p : C8E} (hc : c.c8e = some p) :
    (∀ k, k < 60 → some ((State.powerOn c).byte (c.fontHiBase + 100 + k)) = p.fontHiExt[k]?) ∧
    (∀ k, k < p.asciiPatterns.length → some ((State.powerOn c).byte (p.asciiPatBase + k)) = p.asciiPatterns[k]?) ∧
    (∀ k, k < p.asciiIndex.length → some ((State.powerOn c).byte (p.asciiIdxBase + k)) = p.asciiIndex[k]?) := by
  obtain ⟨-, -, -, -, hext⟩ := layoutValid_tables h hc
  refine ⟨fun k hk => ?_, fun k hk => ?_, fun k hk => ?_⟩
  · rw [byte_powerOn, Nat.add_assoc, initByte_fontHi h (by omega), fontHiByte_enabled hc]
    exact some_getD _ (hext ▸ hk)
  · rw [byte_powerOn, initByte_patterns h hc hk]
    exact some_getD _ hk
  · rw [byte_powerOn, initByte_index h hc hk]
    exact some_getD _ hk

/-- Construction answers CONFIG exactly for a sound threshold outside 1..255 (R406). -/
theorem construct_eq (c : Config) : State.construct c =
    if 1 ≤ c.soundThreshold ∧ c.soundThreshold ≤ 255 then .ok (State.powerOn c) else .error .soundThreshold := by
  simp [State.construct, Config.validated]

/-- Settles O58: construction gives the power-on state, whose bytes are the construction contents. -/
theorem constructionGivesTheInitialState : Obligations.ConstructionGivesTheInitialState := by
  intro c hl
  obtain ⟨hfontLo, hfontHi, hslots⟩ := powerOn_memory hl
  refine ⟨fun hbad => (construct_eq c).trans (if_neg hbad), fun hlo hhi =>
    ⟨State.powerOn c, (construct_eq c).trans (if_pos ⟨hlo, hhi⟩), rfl, fun x => ?reg, rfl, rfl, rfl, fun k hk => ?rpl, rfl, rfl,
      hfontLo, hfontHi, hslots, fun p hp => powerOn_tables hl hp, fun a halo hahi htab => initByte_zero ⟨halo, hahi⟩ htab, rfl,
      sized_blankGrid _ _, pixel_blankGrid _ _, rfl, has_empty, rfl, has_empty, rfl, rfl⟩⟩
  case reg => simp [State.reg, State.powerOn]
  case rpl => simp [State.powerOn, hk]

end Sys2Proof.Machine
end

section
/-! PROOF. Words and memory: the sample words (O1), the glyph CHIP-8E ASCII renders (O55) and the fetch of a stored word (O36). -/

namespace Sys2Proof.Machine

/-! ## Decoding -/

/-- A word of the baseline and SUPER-CHIP families decodes alike on every machine (R104). -/
theorem decodes_of_decodeBase {w : Word} {i : Instr} (h : decodeBase w = .ok i) : Decodes w i := by
  intro cfg
  simp only [decode, h]

/-- Settles O1: each sample word is one of the families that the configuration does not touch. -/
theorem decodeReadsSampleWords : Obligations.DecodeReadsSampleWords := by
  refine ⟨?_, ?_, ?_, ?_, ?_, ?_, ?_, ?_, ?_, ?_, ?_, by decide⟩ <;> exact decodes_of_decodeBase (by decide)

/-! ## The glyph of CHIP-8E ASCII -/

/-- Byte `k` of the rendered glyph (R337). -/
theorem getD_asciiGlyph (p : C8E) (c : Byte) {k : Nat} (hk : k < p.asciiRows) :
    (asciiGlyph p c).getD k 0#8 = Config.c8eAsciiRender c p.asciiPatterns p.asciiIndex k := by
  simp [asciiGlyph, List.getD, hk]

/-- A CHIP-8E operation on a machine with the family. -/
theorem withC8E_of_some {s : State} {p : C8E} (hp : s.cfg.c8e = some p) (k : C8E → Result) : withC8E s k = k p := by
  simp only [withC8E, hp]

theorem asciiResultRegs_of_nothing {p : C8E} (h : p.asciiResult = .nothing) (v : Vector Byte 16) (x y : Reg) :
    asciiResultRegs p v x y = v := by
  simp only [asciiResultRegs, h]

/-- The state CHIP-8E ASCII leaves where it does not fault (R337). -/
def State.afterAscii (s : State) (p : C8E) (x y : Reg) : State :=
  { (s.storeBytes p.asciiScratch (asciiGlyph p (s.reg x))).setI (BitVec.ofNat 12 p.asciiScratch) with
    v := asciiResultRegs p s.v x y }

theorem exec_c8eAscii {s : State} {p : C8E} (hp : s.cfg.c8e = some p) (x y : Reg) : exec (.c8eAscii x y) s =
    operandCheck (decide ((s.reg x).toNat ≤ 63)) s (.next (s.afterAscii p x y)) :=
  withC8E_of_some hp _

/-- A byte after CHIP-8E ASCII: of the glyph inside the scratch region, and the old one outside it. -/
theorem byte_afterAscii {s : State} (hm : s.mem.Pairwise (fun c d => c.1 < d.1)) (p : C8E) (x y : Reg) (a : Nat) :
    (s.afterAscii p x y).byte a = if p.asciiScratch ≤ a ∧ a < p.asciiScratch + p.asciiRows
      then (asciiGlyph p (s.reg x)).getD (a - p.asciiScratch) 0#8 else s.byte a := by
  have h := byte_storeBytes s hm p.asciiScratch (asciiGlyph p (s.reg x)) a
  rwa [length_asciiGlyph] at h

/-- Settles O55: past the operand check, the store into the scratch region says what each byte is. -/
theorem c8eAsciiRender : Obligations.C8eAsciiRender := by
  intro s x y p hp ⟨hm, _⟩
  rw [exec_c8eAscii hp x y]
  refine ⟨fun hle => ?_, fun hgt => ?_⟩
  · refine ⟨s.afterAscii p x y, operandCheck_of_le _ _ _ _ hle, fun k hk => ?_, fun a ha => ?_, BitVec.toNat_ofNat _ _,
      fun hn => asciiResultRegs_of_nothing hn s.v x y, rfl⟩
    · rw [byte_afterAscii hm, if_pos (by omega), Nat.add_sub_cancel_left, getD_asciiGlyph p _ hk]
    · rw [byte_afterAscii hm, if_neg (by omega)]
  · exact ⟨_, (exec_c8eAscii hp x y).trans (operandCheck_of_gt _ _ _ _ hgt)⟩

/-! ## The step that runs a decoded instruction -/

/-- Every instruction answers a next state. -/
theorem exec_next (i : Instr) (s : State) : ∃ t, exec i s = .next t := by
  rcases exec_effect i s with ⟨t, e, -⟩ | ⟨-, code, addr, e, -⟩
  · exact ⟨t, e⟩
  · exact ⟨_, e⟩

/-- With no batch of host actions left, the host does nothing before the step. -/
theorem takeInputs_of_nil {s : State} (h : s.inputs = []) : s.takeInputs = s := by
  simp only [State.takeInputs, h]

theorem finish_eq_ite (i : Instr) (s : State) :
    s.finish i = if s.fault = none then { s with result := some (stepResult s.cfg i) } else s := by
  split
  case isTrue h => exact finish_of_none i s h
  case isFalse h =>
    obtain ⟨r, hr⟩ := Option.ne_none_iff_exists'.mp h
    exact finish_of_fault i s r hr

/-- The fetch check passes at an even address whose word lies inside the program (R133). -/
theorem fetchFails_eq_false {s : State} (heven : s.pc.toNat % 2 = 0) (hlo : programBase ≤ s.pc.toNat)
    (hhi : s.pc.toNat + 2 ≤ s.progEnd) : fetchFails s = false := by
  simp [fetchFails, heven, hlo, hhi]

/-- A ready machine that fetches a legal word runs its instruction (R133 to R137, R141). -/
theorem cpuStep_of_decoded {s : State} {i : Instr} (hr : s.Ready) (hf : fetchFails s.advance = false)
    (hd : decode s.cfg (fetchWord s.advance) = .ok i) : ∃ t, exec i s.advance = .next t ∧
      cpuStep s = .next (if t.fault = none then { t with result := some (stepResult s.cfg i) } else t) := by
  obtain ⟨hfault, hhalted⟩ := hr
  obtain ⟨t, ht⟩ := exec_next i s.advance
  have hcfg : t.cfg = s.cfg := exec_cfg (s := s.advance) ht
  have hrun : runFetched s.advance = finish i (exec i s.advance) := by
    simp only [runFetched, advance_cfg, hd]
  refine ⟨t, ht, ?_⟩
  calc cpuStep s = runFetched s.advance := by simp [cpuStep, runAdvanced, hfault, hhalted, hf]
    _ = .next (t.finish i) := by rw [hrun, ht]; rfl
    _ = _ := by rw [finish_eq_ite, hcfg]

/-! ## A stored word is fetched -/

/-- Byte `z` of the registers up to `x` is register `z` (R103). -/
theorem getD_regsUpTo (s : State) {x z : Reg} (h : z.toNat ≤ x.toNat) :
    (s.regsUpTo x).getD z.toNat 0#8 = s.reg z := by
  have hz : z.toNat < 16 := z.isLt
  simp [State.regsUpTo, State.reg, List.getD, Nat.lt_succ_of_le h, hz]

/-- FX55 whose bytes all lie in the data region completes (R224). -/
theorem exec_ldMiVx {s : State} {x : Reg} (hlo : programBase ≤ s.i.toNat) (hhi : s.i.toNat + x.toNat < s.cfg.memSize) :
    exec (.ldMiVx x) s = .next ((s.storeBytes s.i.toNat (s.regsUpTo x)).bumpI x) :=
  checked_of_inside .data _ _ s _ hlo hhi

/-- The bytes that FX55 stored are the registers (R224). -/
theorem byte_ldMiVx {s t : State} {x : Reg} (hm : s.mem.Pairwise (fun c d => c.1 < d.1))
    (hlo : programBase ≤ s.i.toNat) (hhi : s.i.toNat + x.toNat < s.cfg.memSize) (h : exec (.ldMiVx x) s = .next t)
    {z : Reg} (hz : z.toNat ≤ x.toNat) : t.byte (s.i.toNat + z.toNat) = s.reg z := by
  rw [exec_ldMiVx hlo hhi] at h
  cases h
  rw [byte_congr (s.storeBytes s.i.toNat (s.regsUpTo x)) _ (bumpI_mem _ x) (bumpI_cfg _ x), byte_storeBytes s hm,
    length_regsUpTo, if_pos (by omega), Nat.add_sub_cancel_left, getD_regsUpTo s hz]

/-- The word at the address where FX55 stored is made of the first two registers (R79, R224). -/
theorem wordAt_ldMiVx {s t : State} {x : Reg} (hm : s.mem.Pairwise (fun c d => c.1 < d.1)) (hx : 1 ≤ x.toNat)
    (hlo : programBase ≤ s.i.toNat) (hhi : s.i.toNat + x.toNat < s.cfg.memSize) (h : exec (.ldMiVx x) s = .next t) :
    t.wordAt s.i.toNat = s.reg 0#4 ++ s.reg 1#4 := by
  have h0 : t.byte s.i.toNat = s.reg 0#4 := byte_ldMiVx hm hlo hhi h (z := 0#4) (Nat.zero_le _)
  have h1 : t.byte (s.i.toNat + 1) = s.reg 1#4 := byte_ldMiVx hm hlo hhi h (z := 1#4) hx
  rw [State.wordAt, wordOfBytes, h0, h1]

/-- Settles O36: the next step fetches at `I`, and the word there is the stored one. -/
theorem storedInstructionIsFetched : Obligations.StoredInstructionIsFetched := by
  intro s t u x i ⟨hm, _⟩ hx hlo hhi hexec hu hready heven hend hdec
  have hcfg : u.cfg = s.cfg := by rw [hu, ← exec_cfg hexec]
  have hinputs : u.inputs = [] := by rw [hu]
  have hpc : u.advance.pc = s.i := by rw [hu]; exact BitVec.sub_add_cancel _ _
  have hadvance : u.advance = { u with pc := s.i, result := none } := by rw [← hpc]; rfl
  have hword : fetchWord u.advance = s.reg 0#4 ++ s.reg 1#4 :=
    calc fetchWord u.advance = t.wordAt s.i.toNat := by rw [fetchWord, hpc, hu]; rfl
      _ = _ := wordAt_ldMiVx hm hx hlo hhi hexec
  have hfetch : fetchFails u.advance = false :=
    fetchFails_eq_false (by rwa [hpc]) (by rwa [hpc]) (by rwa [hpc])
  have hrun := cpuStep_of_decoded hready hfetch (by rwa [hword, hcfg])
  rwa [← hadvance, ← hcfg, step_eq, takeInputs_of_nil hinputs]

end Sys2Proof.Machine
end

section
/-! PROOF. Encoding: O2, O3 and O4, and the DECODE fault of O7. -/

namespace Sys2Proof.Machine
open Laws Laws.FieldsInWord

/-! ## A word is the concatenation of its fields (R101, R102) -/

theorem word_of_a12 {w : Word} {o : BitVec 4} {nnn : Addr} (h : fieldOp w = o ∧ fieldNNN w = nnn) : o ++ nnn = w := by
  obtain ⟨rfl, rfl⟩ := h
  exact BitVec.extractLsb'_append_extractLsb' (w := 4) (len := 12)

theorem word_of_xnn {w : Word} {o : BitVec 4} {x : Reg} {nn : Byte}
    (h : fieldOp w = o ∧ fieldX w = x ∧ fieldNN w = nn) : o ++ x ++ nn = w := by
  obtain ⟨rfl, rfl, rfl⟩ := h
  have hox : fieldOp w ++ fieldX w = w.extractLsb' 8 8 := BitVec.extractLsb'_append_extractLsb'_eq_extractLsb' rfl
  rw [hox]
  exact BitVec.extractLsb'_append_extractLsb' (w := 8) (len := 8)

theorem word_of_n4 {w : Word} {k : BitVec 12} {n : Nibble} (h : w.extractLsb' 4 12 = k ∧ fieldN w = n) : k ++ n = w := by
  obtain ⟨rfl, rfl⟩ := h
  exact BitVec.extractLsb'_append_extractLsb' (w := 12) (len := 4)

theorem word_of_xyn {w : Word} {o f : BitVec 4} {x y : Reg}
    (h : fieldOp w = o ∧ fieldX w = x ∧ fieldY w = y ∧ fieldN w = f) : o ++ x ++ y ++ f = w := by
  obtain ⟨rfl, rfl, rfl, rfl⟩ := h
  have hox : fieldOp w ++ fieldX w = w.extractLsb' 8 8 := BitVec.extractLsb'_append_extractLsb'_eq_extractLsb' rfl
  have hoxy : w.extractLsb' 8 8 ++ fieldY w = w.extractLsb' 4 12 := BitVec.extractLsb'_append_extractLsb'_eq_extractLsb' rfl
  rw [hox, hoxy]
  exact word_of_n4 ⟨rfl, rfl⟩

/-- Every instruction's word holds its fields: the laws of Laws/FieldsInWord, put together. -/
theorem fields_of_encode : ∀ i, Statement i
  | .sys _ => sys _ | .cls => cls | .ret => ret | .jp _ => jp _ | .call _ => call _
  | .seVxNn _ _ => seVxNn _ _ | .sneVxNn _ _ => sneVxNn _ _ | .seVxVy _ _ => seVxVy _ _
  | .ldVxNn _ _ => ldVxNn _ _ | .addVxNn _ _ => addVxNn _ _ | .ldVxVy _ _ => ldVxVy _ _
  | .or _ _ => FieldsInWord.or _ _ | .and _ _ => FieldsInWord.and _ _ | .xor _ _ => FieldsInWord.xor _ _
  | .addVxVy _ _ => addVxVy _ _ | .sub _ _ => FieldsInWord.sub _ _ | .shr _ _ => shr _ _ | .subn _ _ => subn _ _
  | .shl _ _ => shl _ _ | .sneVxVy _ _ => sneVxVy _ _ | .ldI _ => ldI _ | .jpV0 _ => jpV0 _ | .rnd _ _ => rnd _ _
  | .drw _ _ _ => drw _ _ _ | .drw16 _ _ => drw16 _ _ | .skp _ => skp _ | .sknp _ => sknp _
  | .ldVxDt _ => ldVxDt _ | .ldVxK _ => ldVxK _ | .ldDtVx _ => ldDtVx _ | .ldStVx _ => ldStVx _
  | .addIVx _ => addIVx _ | .ldF _ => ldF _ | .ldB _ => ldB _ | .ldMiVx _ => ldMiVx _ | .ldVxMi _ => ldVxMi _
  | .scd _ => scd _ | .scr => scr | .scl => scl | .exit => exit | .low => low | .high => high
  | .ldHf _ => ldHf _ | .ldRVx _ => ldRVx _ | .ldVxR _ => ldVxR _
  | .c8eSks _ _ => c8eSks _ _ | .c8eMul _ _ => c8eMul _ _ | .c8eDiv _ _ => c8eDiv _ _
  | .c8eBcd16 _ _ => c8eBcd16 _ _ | .c8eAscii _ _ => c8eAscii _ _ | .c8eOp6 _ _ => c8eOp6 _ _

/-- The fields of a baseline or SUPER-CHIP instruction fix its word. -/
theorem encode_of_fields (cfg : Config) {w : Word} {i : Instr} (hi : ¬ IsC8E i) (hf : fields w i) :
    encode cfg i = some w := by
  cases i with
  | cls | ret | scr | scl | exit | low | high => exact congrArg some hf.symm
  | sys _ | jp _ | call _ | ldI _ | jpV0 _ => exact congrArg some (word_of_a12 hf)
  | scd _ => exact congrArg some (word_of_n4 hf)
  | seVxVy _ _ | ldVxVy _ _ | or _ _ | and _ _ | xor _ _ | addVxVy _ _ | sub _ _ | shr _ _ | subn _ _ | shl _ _
  | sneVxVy _ _ | drw _ _ _ | drw16 _ _ => exact congrArg some (word_of_xyn hf)
  | seVxNn _ _ | sneVxNn _ _ | ldVxNn _ _ | addVxNn _ _ | rnd _ _ | skp _ | sknp _ | ldVxDt _ | ldVxK _ | ldDtVx _
  | ldStVx _ | addIVx _ | ldF _ | ldB _ | ldMiVx _ | ldVxMi _ | ldHf _ | ldRVx _ | ldVxR _ =>
    exact congrArg some (word_of_xnn hf)
  | c8eSks _ _ | c8eMul _ _ | c8eDiv _ _ | c8eBcd16 _ _ | c8eAscii _ _ | c8eOp6 _ _ => exact absurd trivial hi

theorem encode_isSome (cfg : Config) {i : Instr} (hi : ¬ IsC8E i) : (encode cfg i).isSome = true := by
  cases i with
  | c8eSks _ _ | c8eMul _ _ | c8eDiv _ _ | c8eBcd16 _ _ | c8eAscii _ _ | c8eOp6 _ _ => exact absurd trivial hi
  | _ => rfl

/-! ## The 0x0 group -/

/-- Two words with the same `op` are equal when their low 12 bits are. -/
theorem eq_iff_fieldNNN {w v : Word} (h : fieldOp w = fieldOp v) : w = v ↔ fieldNNN w = fieldNNN v := by
  refine ⟨congrArg _, fun hn => ?_⟩
  rw [← word_of_a12 (w := w) ⟨h, hn⟩, word_of_a12 ⟨rfl, rfl⟩]

/-- A 0x0 word is one of 00CN exactly when bits 11 to 4 say so. -/
theorem top_eq_iff {w : Word} (h : fieldOp w = 0#4) :
    w.extractLsb' 4 12 = 0x00C#12 ↔ (fieldNNN w).extractLsb' 4 8 = 0x0C#8 := by
  have hmid : (fieldNNN w).extractLsb' 4 8 = w.extractLsb' 4 8 := by
    ext j hj
    simp [fieldNNN]
  have htop : 0#4 ++ w.extractLsb' 4 8 = w.extractLsb' 4 12 := by
    rw [← h]
    exact BitVec.extractLsb'_append_extractLsb'_eq_extractLsb' rfl
  rw [hmid, ← htop]
  refine ⟨fun e => ?_, fun e => by rw [e]; rfl⟩
  calc w.extractLsb' 4 8 = (0#4 ++ w.extractLsb' 4 8).extractLsb' 0 8 := (BitVec.extractLsb'_append_eq_right ..).symm
    _ = 0x0C#8 := by rw [e]; rfl

/-- `claimed0` names the 0x0 words of the other rows (R104). -/
theorem claimed0_eq_false_iff {w : Word} (h : fieldOp w = 0#4) : claimed0 (fieldNNN w) = false ↔
    w ≠ 0x00E0#16 ∧ w ≠ 0x00EE#16 ∧ w.extractLsb' 4 12 ≠ 0x00C#12 ∧ w ≠ 0x00FB#16 ∧ w ≠ 0x00FC#16 ∧ w ≠ 0x00FD#16 ∧
    w ≠ 0x00FE#16 ∧ w ≠ 0x00FF#16 := by
  have hword (v : Word) (hv : fieldOp v = 0#4) : w = v ↔ fieldNNN w = fieldNNN v := eq_iff_fieldNNN (h.trans hv.symm)
  -- What `simp` leaves differs only in the low 12 bits of literal words.
  simp only [claimed0, Bool.or_eq_false_iff, beq_eq_false_iff_ne, ne_eq, top_eq_iff h, hword 0x00E0#16 rfl,
    hword 0x00EE#16 rfl, hword 0x00FB#16 rfl, hword 0x00FC#16 rfl, hword 0x00FD#16 rfl, hword 0x00FE#16 rfl,
    hword 0x00FF#16 rfl, and_assoc]
  rfl

theorem fieldOp_of_top {w : Word} (h : w.extractLsb' 4 12 = 0x00C#12) : fieldOp w = 0#4 := by
  rw [← word_of_n4 ⟨h, rfl⟩, fieldOp, BitVec.extractLsb'_append_eq_of_le (by decide)]
  decide

theorem decode0_of_top {w : Word} (h : w.extractLsb' 4 12 = 0x00C#12) : decode0 w = .scd (fieldN w) := by
  have hE0 : w ≠ 0x00E0#16 := by rintro rfl; exact absurd h (by decide)
  have hEE : w ≠ 0x00EE#16 := by rintro rfl; exact absurd h (by decide)
  rw [decode0, if_neg hE0, if_neg hEE, if_pos h, fieldN]

theorem decode0_of_not_claimed {w : Word} (ho : fieldOp w = 0#4) (h : claimed0 (fieldNNN w) = false) :
    decode0 w = .sys (fieldNNN w) := by
  obtain ⟨hE0, hEE, hC, hFB, hFC, hFD, hFE, hFF⟩ := (claimed0_eq_false_iff ho).mp h
  rw [decode0, if_neg hE0, if_neg hEE, if_neg hC, if_neg hFB, if_neg hFC, if_neg hFD, if_neg hFE, if_neg hFF, fieldNNN]

/-! ## A word decodes by its fields -/

theorem decodeBase_of_op0 {w : Word} (ho : fieldOp w = 0#4) : decodeBase w = .ok (decode0 w) := by
  rw [fieldOp] at ho
  simp only [decodeBase, ho]; rfl

/-- A word with the fields of a well-formed baseline or SUPER-CHIP instruction decodes to it (R104). -/
theorem decodeBase_of_fields {cfg : Config} {w : Word} {i : Instr} (hi : ¬ IsC8E i) (hwf : i.wellFormed cfg = true)
    (hf : fields w i) : decodeBase w = .ok i := by
  cases i with
  | cls | ret | scr | scl | exit | low | high => cases hf; rfl
  | scd _ =>
    obtain ⟨h, rfl⟩ := hf
    rw [decodeBase_of_op0 (fieldOp_of_top h), decode0_of_top h]
  | sys _ =>
    obtain ⟨ho, rfl⟩ := hf
    have hc : claimed0 (fieldNNN w) = false := by simpa [Instr.wellFormed] using hwf
    rw [decodeBase_of_op0 ho, decode0_of_not_claimed ho hc]
  | jp _ | call _ | ldI _ | jpV0 _ =>
    obtain ⟨ho, rfl⟩ := hf
    rw [fieldOp] at ho
    simp only [decodeBase, ho]; rfl
  | seVxVy _ _ | ldVxVy _ _ | or _ _ | and _ _ | xor _ _ | addVxVy _ _ | sub _ _ | shr _ _ | subn _ _ | shl _ _
  | sneVxVy _ _ | drw16 _ _ =>
    obtain ⟨ho, rfl, rfl, hn⟩ := hf
    rw [fieldOp] at ho
    rw [fieldN] at hn
    simp only [decodeBase, ho, hn]; rfl
  | drw _ _ _ =>
    obtain ⟨ho, rfl, rfl, rfl⟩ := hf
    have hn : fieldN w ≠ 0#4 := by simpa [Instr.wellFormed] using hwf
    rw [fieldOp] at ho
    rw [fieldN] at hn
    simp only [decodeBase, ho, if_neg hn]; rfl
  | seVxNn _ _ | sneVxNn _ _ | ldVxNn _ _ | addVxNn _ _ | rnd _ _ =>
    obtain ⟨ho, rfl, rfl⟩ := hf
    rw [fieldOp] at ho
    simp only [decodeBase, ho]; rfl
  | skp _ | sknp _ | ldVxDt _ | ldVxK _ | ldDtVx _ | ldStVx _ | addIVx _ | ldF _ | ldB _ | ldMiVx _ | ldVxMi _
  | ldHf _ | ldRVx _ | ldVxR _ =>
    obtain ⟨ho, rfl, hnn⟩ := hf
    rw [fieldOp] at ho
    rw [fieldNN] at hnn
    simp only [decodeBase, ho, hnn]; rfl
  | c8eSks _ _ | c8eMul _ _ | c8eDiv _ _ | c8eBcd16 _ _ | c8eAscii _ _ | c8eOp6 _ _ => exact absurd trivial hi

/-! ## What decodes is well formed -/

/-- An answer of the decoder is well formed on every machine, and its fields stand in the word. -/
def Sound (w : Word) (r : Except Reject Instr) : Prop :=
  ∀ i, r = .ok i → fields w i ∧ ∀ cfg, i.wellFormed cfg = true

theorem sound_ok {w : Word} {i : Instr} (hf : fields w i) (hwf : ∀ cfg, i.wellFormed cfg = true) : Sound w (.ok i) := by
  rintro _ ⟨⟩
  exact ⟨hf, hwf⟩

theorem sound_error (w : Word) (e : Reject) : Sound w (.error e) := by rintro _ ⟨⟩

/-- One row of a decoder: its instruction stands in the word, or the later rows answer. -/
theorem sound_row {w : Word} {p : Prop} [Decidable p] {i : Instr} {r : Except Reject Instr} (hf : p → fields w i)
    (hwf : ∀ cfg, i.wellFormed cfg = true) (hr : ¬ p → Sound w r) : Sound w (if p then .ok i else r) := by
  split
  case isTrue h => exact sound_ok (hf h) hwf
  case isFalse h => exact hr h

theorem sound_decode0 {w : Word} (ho : fieldOp w = 0x0#4) : Sound w (.ok (decode0 w)) := by
  unfold decode0
  split_ifs with hE0 hEE hC hFB hFC hFD hFE hFF
  · exact sound_ok hE0 fun _ => rfl
  · exact sound_ok hEE fun _ => rfl
  · exact sound_ok ⟨hC, rfl⟩ fun _ => rfl
  · exact sound_ok hFB fun _ => rfl
  · exact sound_ok hFC fun _ => rfl
  · exact sound_ok hFD fun _ => rfl
  · exact sound_ok hFE fun _ => rfl
  · exact sound_ok hFF fun _ => rfl
  · have hc : claimed0 (fieldNNN w) = false :=
      (claimed0_eq_false_iff ho).mpr ⟨hE0, hEE, hC, hFB, hFC, hFD, hFE, hFF⟩
    exact sound_ok ⟨ho, rfl⟩ fun _ => congrArg (!·) hc

theorem sound_decode8 {w : Word} (ho : fieldOp w = 0x8#4) : Sound w (decode8 (fieldX w) (fieldY w) (fieldN w)) := by
  unfold decode8
  iterate 9 refine sound_row (fun hn => ⟨ho, rfl, rfl, hn⟩) (fun _ => rfl) fun _ => ?_
  exact sound_error _ _

theorem sound_decodeE {w : Word} (ho : fieldOp w = 0xE#4) : Sound w (decodeE (fieldX w) (fieldNN w)) := by
  unfold decodeE
  iterate 2 refine sound_row (fun hn => ⟨ho, rfl, hn⟩) (fun _ => rfl) fun _ => ?_
  exact sound_error _ _

theorem sound_decodeF {w : Word} (ho : fieldOp w = 0xF#4) : Sound w (decodeF (fieldX w) (fieldNN w)) := by
  unfold decodeF
  iterate 12 refine sound_row (fun hn => ⟨ho, rfl, hn⟩) (fun _ => rfl) fun _ => ?_
  exact sound_error _ _

/-- The map of R104 answers only well-formed instructions, and drops no bit of the word. -/
theorem sound_decodeBase (w : Word) : Sound w (decodeBase w) := by
  unfold decodeBase
  dsimp only
  split
  case h_1 h => exact sound_decode0 (BitVec.eq_of_toNat_eq h)
  case h_2 h | h_3 h | h_11 h | h_12 h => exact sound_ok ⟨BitVec.eq_of_toNat_eq h, rfl⟩ fun _ => rfl
  case h_4 h | h_5 h | h_7 h | h_8 h | h_13 h => exact sound_ok ⟨BitVec.eq_of_toNat_eq h, rfl, rfl⟩ fun _ => rfl
  case h_6 h | h_10 h =>
    exact sound_row (fun hn => ⟨BitVec.eq_of_toNat_eq h, rfl, rfl, hn⟩) (fun _ => rfl) fun _ => sound_error _ _
  case h_9 h => exact sound_decode8 (BitVec.eq_of_toNat_eq h)
  case h_14 h =>
    refine sound_row (fun hn => ⟨BitVec.eq_of_toNat_eq h, rfl, rfl, hn⟩) (fun _ => rfl) fun hn => ?_
    exact sound_ok ⟨BitVec.eq_of_toNat_eq h, rfl, rfl, rfl⟩ fun _ => by simpa [Instr.wellFormed] using hn
  case h_15 h => exact sound_decodeE (BitVec.eq_of_toNat_eq h)
  case h_16 =>
    have hlt := (w.extractLsb' 12 4).isLt
    have h : (w.extractLsb' 12 4).toNat = 15 := by simp only [imp_false] at *; omega
    exact sound_decodeF (BitVec.eq_of_toNat_eq h)

/-! ## The illegal words of the baseline and SUPER-CHIP families (R105) -/

/-- The decoder answers no instruction. -/
def Rejects (r : Except Reject Instr) : Prop := ∃ e, r = .error e

theorem rejects_ok (i : Instr) : ¬ Rejects (.ok i) := by rintro ⟨_, ⟨⟩⟩

theorem rejects_error (e : Reject) : Rejects (.error e) := ⟨e, rfl⟩

theorem rejects_row {p : Prop} [Decidable p] {i : Instr} {r : Except Reject Instr} :
    Rejects (if p then .ok i else r) ↔ ¬ p ∧ Rejects r := by
  split
  case isTrue h => exact iff_of_false (rejects_ok i) fun h' => h'.1 h
  case isFalse h => exact (and_iff_right h).symm

theorem rejects_decode8 (x y : Reg) (n : Nibble) : Rejects (decode8 x y n) ↔
    n ∈ [0x8#4, 0x9#4, 0xA#4, 0xB#4, 0xC#4, 0xD#4, 0xF#4] := by
  simp only [decode8, rejects_row, iff_true_intro (rejects_error _)]
  revert n
  decide

theorem rejects_decodeE (x : Reg) (nn : Byte) : Rejects (decodeE x nn) ↔ nn ∉ [0x9E#8, 0xA1#8] := by
  simp [decodeE, rejects_row, rejects_error]

theorem rejects_decodeF (x : Reg) (nn : Byte) : Rejects (decodeF x nn) ↔ nn ∉
    [0x07#8, 0x0A#8, 0x15#8, 0x18#8, 0x1E#8, 0x29#8, 0x30#8, 0x33#8, 0x55#8, 0x65#8, 0x75#8, 0x85#8] := by
  simp [decodeF, rejects_row, rejects_error]

theorem fieldOp_eq_ofNat {w : Word} {k : Nat} (h : (w.extractLsb' 12 4).toNat = k) : fieldOp w = BitVec.ofNat 4 k :=
  BitVec.eq_of_toNat_eq (by rw [fieldOp, h, BitVec.toNat_ofNat, Nat.mod_eq_of_lt (h ▸ BitVec.isLt _)])

/-- The branches of the decoder that have illegal words. -/
theorem rejects_decodeBase (w : Word) : Rejects (decodeBase w) ↔
    (fieldOp w = 0x5#4 ∧ fieldN w ≠ 0#4) ∨
    (fieldOp w = 0x8#4 ∧ Rejects (decode8 (fieldX w) (fieldY w) (fieldN w))) ∨
    (fieldOp w = 0x9#4 ∧ fieldN w ≠ 0#4) ∨
    (fieldOp w = 0xE#4 ∧ Rejects (decodeE (fieldX w) (fieldNN w))) ∨
    (fieldOp w = 0xF#4 ∧ Rejects (decodeF (fieldX w) (fieldNN w))) := by
  unfold decodeBase
  dsimp only
  split
  case h_16 =>
    have hlt := (w.extractLsb' 12 4).isLt
    have h : (w.extractLsb' 12 4).toNat = 15 := by simp only [imp_false] at *; omega
    simp [fieldOp_eq_ofNat h, fieldX, fieldNN]
  all_goals
    rename_i h
    simp [fieldOp_eq_ofNat h, rejects_row, rejects_ok, rejects_error, fieldX, fieldY, fieldN, fieldNN]

/-! ## The CHIP-8E rows -/

/-- A CHIP-8E operation: its row, and its instruction for the fields `x` and `y`. -/
abbrev C8EOperation := C8ERow × (Reg → Reg → Instr)

/-- The CHIP-8E operations of a machine, in the order of R339. -/
def c8eOps (p : C8E) : List C8EOperation :=
  [(p.encSks, .c8eSks), (p.encMul, .c8eMul), (p.encDiv, .c8eDiv), (p.encBcd16, .c8eBcd16), (p.encAscii, .c8eAscii)] ++
    (p.op6.map fun q => (q.enc, Instr.c8eOp6)).toList

theorem rows_eq_map_ops (p : C8E) : p.rows = (c8eOps p).map Prod.fst := by
  unfold C8E.rows c8eOps
  cases p.op6 <;> rfl

theorem mem_c8eOps {p : C8E} {op : C8EOperation} : op ∈ c8eOps p ↔
    op = (p.encSks, .c8eSks) ∨ op = (p.encMul, .c8eMul) ∨ op = (p.encDiv, .c8eDiv) ∨ op = (p.encBcd16, .c8eBcd16) ∨
    op = (p.encAscii, .c8eAscii) ∨ ∃ q, p.op6 = some q ∧ (q.enc, Instr.c8eOp6) = op := by
  simp [c8eOps]

theorem map_find?_cons {α β : Type} (q : α → Bool) (f : α → β) (a : α) (l : List α) :
    ((a :: l).find? q).map f = if q a then some (f a) else (l.find? q).map f := by
  rw [List.find?_cons]
  cases q a <;> rfl

/-- The decoder takes the first CHIP-8E row that claims the word. -/
theorem decodeC8E_eq_find? (p : C8E) (w : Word) :
    decodeC8E p w = ((c8eOps p).find? (·.1.matches w)).map fun op => op.2 (fieldX w) (fieldY w) := by
  unfold decodeC8E c8eOps
  simp only [List.cons_append, List.nil_append, map_find?_cons]
  cases p.op6 with
  | none => rfl
  | some q => simp only [Option.map_some, Option.toList_some, map_find?_cons]; rfl

theorem decodeC8E_eq_none_iff (p : C8E) (w : Word) : decodeC8E p w = none ↔ ∀ r ∈ p.rows, r.matches w = false := by
  simp [decodeC8E_eq_find?, rows_eq_map_ops]

/-- A word the CHIP-8E rows answer is claimed by the row of the answer. -/
theorem exists_op_of_decodeC8E {p : C8E} {w : Word} {i : Instr} (h : decodeC8E p w = some i) :
    ∃ op ∈ c8eOps p, op.1.matches w = true ∧ op.2 (fieldX w) (fieldY w) = i := by
  rw [decodeC8E_eq_find?] at h
  obtain ⟨op, hfind, hi⟩ := Option.map_eq_some_iff.mp h
  have hm := List.find?_some hfind
  exact ⟨op, List.mem_of_find?_eq_some hfind, hm, hi⟩

/-- With disjoint rows (R106) the row that claims a word answers, whatever its place in the order. -/
theorem decodeC8E_of_op {p : C8E} (hd : p.rows.Pairwise C8ERow.Disjoint) {op : C8EOperation} (hop : op ∈ c8eOps p)
    {w : Word} (hm : op.1.matches w = true) : decodeC8E p w = some (op.2 (fieldX w) (fieldY w)) := by
  obtain ⟨before, after, hsplit⟩ := List.append_of_mem hop
  rw [rows_eq_map_ops, List.pairwise_map, hsplit, List.pairwise_append] at hd
  obtain ⟨-, -, hbefore⟩ := hd
  have hfind : (c8eOps p).find? (fun o => o.1.matches w) = some op := by
    refine List.find?_eq_some_iff_append.mpr ⟨hm, before, after, hsplit, fun earlier he => ?_⟩
    have hdisjoint : earlier.1.Disjoint op.1 := hbefore earlier he op List.mem_cons_self
    simpa [hm] using hdisjoint w
  rw [decodeC8E_eq_find?, hfind, Option.map_some]

/-- The well-formedness check and the encoder ask the operation's own row. -/
theorem c8eOps_spec {cfg : Config} {p : C8E} (hp : cfg.c8e = some p) {op : C8EOperation} (hop : op ∈ c8eOps p)
    (x y : Reg) : IsC8E (op.2 x y) ∧ (op.2 x y).wellFormed cfg = op.1.admits x y ∧
      encode cfg (op.2 x y) = some (op.1.word x y) := by
  rcases mem_c8eOps.mp hop with rfl | rfl | rfl | rfl | rfl | ⟨q, hq, rfl⟩
  case inr.inr.inr.inr.inr => simp [IsC8E, Instr.wellFormed, encode, hp, hq]
  all_goals simp [IsC8E, Instr.wellFormed, encode, hp]

/-- A well-formed CHIP-8E instruction is one of the machine's operations. -/
theorem exists_op_of_wellFormed {cfg : Config} {i : Instr} (hi : IsC8E i) (hwf : i.wellFormed cfg = true) :
    ∃ p, cfg.c8e = some p ∧ ∃ op ∈ c8eOps p, ∃ x y, op.2 x y = i := by
  cases i with
  | c8eSks x y | c8eMul x y | c8eDiv x y | c8eBcd16 x y | c8eAscii x y =>
    obtain ⟨p, hp, -⟩ := (Option.any_eq_true _ _).mp hwf
    exact ⟨p, hp, by simp [mem_c8eOps, or_and_right, exists_or]⟩
  | c8eOp6 x y =>
    obtain ⟨p, hp, hrow⟩ := (Option.any_eq_true _ _).mp hwf
    obtain ⟨q, hq, -⟩ := (Option.any_eq_true _ _).mp hrow
    exact ⟨p, hp, (q.enc, .c8eOp6), by simp [mem_c8eOps, hq], x, y, rfl⟩
  | _ => exact hi.elim

/-! ## The bits of a CHIP-8E row -/

theorem matches_iff (r : C8ERow) (w : Word) : r.matches w = true ↔ w &&& r.mask = r.pat := beq_iff_eq

/-- The word of a row with the fields of `w` takes the bits outside `x` and `y` from the row, and the others from `w`. -/
theorem word_fields (r : C8ERow) (w : Word) :
    r.word (fieldX w) (fieldY w) = (r.pat &&& 0xF00F#16) ||| (w &&& 0x0FF0#16) := by
  have hxy : 0#4 ++ fieldX w ++ fieldY w ++ 0#4 = w &&& 0x0FF0#16 := by
    refine word_of_xyn ?_
    simp only [fieldOp, fieldX, fieldY, fieldN, BitVec.extractLsb'_and]
    exact ⟨BitVec.and_zero, BitVec.and_allOnes, BitVec.and_allOnes, BitVec.and_zero⟩
  rw [C8ERow.word, hxy]

/-- The bits outside the fields `x` and `y`, and the bits of these fields, make up the word. -/
theorem outside_or_fields (w : Word) : (w &&& 0xF00F#16) ||| (w &&& 0x0FF0#16) = w := by
  rw [← BitVec.and_or_distrib_left]
  exact BitVec.and_allOnes

/-- A row that claims a word has a word with its fields. -/
theorem admits_of_matches {r : C8ERow} {w : Word} (h : r.matches w = true) :
    r.admits (fieldX w) (fieldY w) = true := by
  rw [matches_iff] at h
  rw [C8ERow.admits, matches_iff, word_fields, ← h]
  have hright (v k : Word) : v &&& k &&& r.mask = v &&& r.mask &&& k := by
    rw [BitVec.and_assoc, BitVec.and_comm k, ← BitVec.and_assoc]
  calc ((w &&& r.mask &&& 0xF00F#16) ||| (w &&& 0x0FF0#16)) &&& r.mask
      = (w &&& r.mask &&& 0xF00F#16) ||| (w &&& r.mask &&& 0x0FF0#16) := by
        simp only [BitVec.and_or_distrib_right, hright, BitVec.and_assoc w r.mask r.mask, BitVec.and_self]
    _ = w &&& r.mask := outside_or_fields _

/-- A row that fixes every bit outside `x` and `y` claims only its own words. -/
theorem word_of_matches {r : C8ERow} {w : Word} (hr : r.mask &&& 0xF00F#16 = 0xF00F#16) (h : r.matches w = true) :
    r.word (fieldX w) (fieldY w) = w := by
  rw [matches_iff] at h
  rw [word_fields, ← h, BitVec.and_assoc, hr, outside_or_fields]

/-! ## The whole decoder -/

/-- On a word the other families leave illegal, a machine with the family asks the CHIP-8E rows (R104). -/
theorem decode_of_error {cfg : Config} {p : C8E} {w : Word} {e : Reject} (he : decodeBase w = .error e)
    (hp : cfg.c8e = some p) : decode cfg w = (decodeC8E p w).elim (.error e) .ok := by
  simp only [decode, he, hp]
  cases decodeC8E p w <;> rfl

/-- A word decodes as the baseline and SUPER-CHIP families say, or they leave it illegal and a CHIP-8E row claims it (R104). -/
theorem decode_cases {cfg : Config} {w : Word} {i : Instr} (h : decode cfg w = .ok i) :
    decodeBase w = .ok i ∨ (Rejects (decodeBase w) ∧ ∃ p, cfg.c8e = some p ∧ decodeC8E p w = some i) := by
  cases hb : decodeBase w with
  | ok j => exact .inl ((decodes_of_decodeBase hb cfg).symm.trans h)
  | error e =>
    cases hp : cfg.c8e with
    | none => rw [decode_of_disabled hp, hb] at h; cases h
    | some p =>
      rw [decode_of_error hb hp] at h
      cases hc : decodeC8E p w with
      | none => rw [hc] at h; cases h
      | some j => rw [hc] at h; cases h; exact .inr ⟨rejects_error e, p, rfl, hc⟩

theorem rejects_elim (o : Option Instr) (e : Reject) : Rejects (o.elim (.error e) .ok) ↔ o = none := by
  cases o with
  | none => exact iff_of_true (rejects_error e) rfl
  | some i => exact iff_of_false (rejects_ok i) (by simp)

/-- A word is illegal when the other families leave it illegal and no CHIP-8E row claims it (R105, R106). -/
theorem rejects_decode (cfg : Config) (w : Word) : Rejects (decode cfg w) ↔
    Rejects (decodeBase w) ∧ ¬ ∃ p r, cfg.c8e = some p ∧ r ∈ p.rows ∧ r.matches w = true := by
  cases hb : decodeBase w with
  | ok i => simp [decodes_of_decodeBase hb cfg, rejects_ok]
  | error e =>
    cases hp : cfg.c8e with
    | none => simp [decode_of_disabled hp, hb, rejects_error]
    | some p => simp [decode_of_error hb hp, rejects_elim, decodeC8E_eq_none_iff, rejects_error]

/-! ## The statements -/

theorem decodeBytes_bytesOfWord {cfg : Config} {w : Word} {i : Instr} (h : decode cfg w = .ok i) (rest : List Byte) :
    decodeBytes cfg (bytesOfWord w ++ rest) = .ok (i, rest) := by
  simp [bytesOfWord, decodeBytes, wordOfBytes_bytesOfWord, h]

/-- A CHIP-8E operation with fields its row admits has a word, which decodes to it: the row lies inside the illegal set
and no other row claims the word (R106). -/
theorem decode_encode_op {cfg : Config} {p : C8E} (hp : cfg.c8e = some p) (hv : p.EncodingsValid)
    {op : C8EOperation} (hop : op ∈ c8eOps p) {x y : Reg} (ha : op.1.admits x y = true) :
    decode cfg (op.1.word x y) = .ok (op.2 x y) := by
  have hrow : op.1 ∈ p.rows := rows_eq_map_ops p ▸ List.mem_map_of_mem hop
  have hdecode := decodeC8E_of_op hv.disjoint hop ha
  rw [fieldX, fieldY, x_word, y_word] at hdecode
  obtain ⟨e, he⟩ := hv.inIllegalSet _ hrow _ ha
  rw [decode_of_error he hp, hdecode, Option.elim_some]

/-- Every well-formed instruction has a word that decodes to it. -/
theorem exists_word {cfg : Config} {i : Instr} (hv : ∀ p, cfg.c8e = some p → p.EncodingsValid)
    (hwf : i.wellFormed cfg = true) : ∃ w, encode cfg i = some w ∧ decode cfg w = .ok i := by
  by_cases hi : IsC8E i
  case pos =>
    obtain ⟨p, hp, op, hop, x, y, rfl⟩ := exists_op_of_wellFormed hi hwf
    obtain ⟨-, hadmits, hencode⟩ := c8eOps_spec hp hop x y
    exact ⟨_, hencode, decode_encode_op hp (hv p hp) hop (hadmits ▸ hwf)⟩
  case neg =>
    obtain ⟨w, hw⟩ := Option.isSome_iff_exists.mp (encode_isSome cfg hi)
    exact ⟨w, hw, decodes_of_decodeBase (decodeBase_of_fields hi hwf (fields_of_encode i cfg w hw)) cfg⟩

/-- Settles O2: a baseline or SUPER-CHIP word is decoded by its fields, and a CHIP-8E word by its own row. -/
theorem encodeThenDecodeGivesTheInstruction : Obligations.EncodeThenDecodeGivesTheInstruction := by
  intro cfg i rest hv hwf
  obtain ⟨w, hencode, hdecode⟩ := exists_word hv hwf
  exact ⟨w, hencode, hdecode, decodeBytes_bytesOfWord hdecode rest⟩

/-- Settles O3: a word of the first two families is fixed by the fields it was decoded from, and a CHIP-8E word agrees with
its row's word in the fields `x` and `y` and under the row's mask. -/
theorem decodedInstructionIsWellFormedAndReencodes : Obligations.DecodedInstructionIsWellFormedAndReencodes := by
  intro cfg w i h
  rcases decode_cases h with hbase | ⟨⟨e, he⟩, p, hp, hc8e⟩
  · obtain ⟨hf, hwf⟩ := sound_decodeBase w i hbase
    refine ⟨hwf cfg, fun _ => encode_of_fields cfg (noC8E_decodeBase w i hbase) hf, fun ⟨_, he⟩ => ?_⟩
    cases hbase.symm.trans he
  · obtain ⟨op, hop, hm, rfl⟩ := exists_op_of_decodeC8E hc8e
    obtain ⟨hi, hadmits, hencode⟩ := c8eOps_spec hp hop (fieldX w) (fieldY w)
    refine ⟨hadmits.trans (admits_of_matches hm), fun hbase => ?_, fun _ => ⟨hi, fun hmask => ?_⟩⟩
    · cases hbase.symm.trans he
    · have hrow : op.1 ∈ p.rows := rows_eq_map_ops p ▸ List.mem_map_of_mem hop
      rw [hencode, word_of_matches (hmask p hp _ hrow) hm]

/-- Settles O4: the groups are the decoder's branches that have an error, less the words a CHIP-8E row claims. -/
theorem illegalWordsAreTheFiveGroups : Obligations.IllegalWordsAreTheFiveGroups := by
  intro cfg w
  have h := rejects_decode cfg w
  simp only [rejects_decodeBase, rejects_decode8, rejects_decodeE, rejects_decodeF] at h
  exact h

/-- Settles O7: the fetch check passes, the fetched word does not decode, and the fault record is all that is written. -/
theorem illegalWordFaultsDecode : Obligations.IllegalWordFaultsDecode := by
  rintro s b w e rfl ⟨hfault, hhalted⟩ heven hlo hhi rfl hd
  have hf : fetchFails s.takeInputs.advance = false := fetchFails_eq_false heven hlo hhi
  have hw : decode s.takeInputs.cfg (fetchWord s.takeInputs.advance) = .error e := hd
  refine ⟨s.takeInputs.advance.takeFault .decode (some (fetchWord s.takeInputs.advance)) none, ?_, rfl⟩
  simp [step_eq, cpuStep, runAdvanced, runFetched, hfault, hhalted, hf, hw]

end Sys2Proof.Machine
end

section
/-! PROOF. The cycle: the step of a ready machine (O5, O6), the machine that has none (O8), the step result (O9), and what an
instruction answers (O10, O12). -/

namespace Sys2Proof.Machine

/-! ## What an instruction answers -/

/-- Settles O12: a completed instruction and a fault of the spec are both next states. -/
theorem everyInstructionExecutes : Obligations.EveryInstructionExecutes := exec_next

/-- An instruction that faults has written its record over the state it found, and nothing else (R140, R402). -/
theorem exec_faulted {i : Instr} {s t : State} (h : exec i s = .next t) (hs : s.fault = none) (ht : t.fault ≠ none) :
    ∃ code addr, t = s.takeFault code (some (s.wordAt s.pc.toNat)) addr ∧ (addr = none ↔ code ≠ .memRange) ∧
      code ≠ .fetchRange := by
  rcases exec_cases h with hsame | ⟨-, hrecord⟩
  · have e : t.fault = s.fault := hsame .fault fault_not_written
    exact absurd (e.trans hs) ht
  · exact hrecord

/-- Settles O10: the next state of a faulting instruction is the taking of its fault. -/
theorem faultingInstructionWritesOnlyTheRecord : Obligations.FaultingInstructionWritesOnlyTheRecord := by
  intro i s t h hs ht
  obtain ⟨code, addr, rfl, haddr, hcode⟩ := exec_faulted h hs ht
  exact ⟨code, addr, ⟨_, h⟩, haddr, hcode⟩

/-! ## The step of a ready machine -/

/-- Settles O5: the fetch check passes and the fetched word is the decoded one, so the instruction runs. -/
theorem stepRunsTheDecodedInstruction : Obligations.StepRunsTheDecodedInstruction := by
  rintro s _ _ i rfl hready rfl heven hlo hhi hd
  obtain ⟨t, ht, hstep⟩ := cpuStep_of_decoded hready (fetchFails_eq_false (s := s.takeInputs.advance) heven hlo hhi) hd
  rw [show s.takeInputs.cfg = t.cfg from (exec_cfg ht).symm] at hstep
  exact ⟨t, ht, hstep⟩

/-- The fetch check of R133 in natural numbers. -/
theorem fetchFails_iff (s : State) :
    fetchFails s = true ↔ s.pc.toNat % 2 ≠ 0 ∨ s.pc.toNat < programBase ∨ s.pc.toNat + 2 > s.progEnd := by
  simp [fetchFails, or_assoc]

/-- A ready machine whose fetch check fails faults FETCH_RANGE (R133, R402). -/
theorem cpuStep_of_fetchFails {s : State} (hr : s.Ready) (hf : fetchFails s.advance = true) :
    cpuStep s = .next (s.advance.takeFault .fetchRange none none) := by
  obtain ⟨hfault, hhalted⟩ := hr
  simp [cpuStep, runAdvanced, hfault, hhalted, hf]

@[simp] theorem finish_fault (i : Instr) (s : State) : (s.finish i).fault = s.fault := by rw [finish_eq]

/-- Only the fetch check raises FETCH_RANGE: an illegal word raises DECODE, and no instruction raises it (R133, R135, R401). -/
theorem fetchFails_of_fetchRange {s t : State} (h : cpuStep s = .next t) {r : FaultRecord} (hr : t.fault = some r)
    (hcode : r.code = .fetchRange) : fetchFails s.advance = true := by
  obtain ⟨hs, -, ⟨hf, -⟩ | ⟨-, e, -, rfl⟩ | ⟨-, i, -, u, hu, rfl⟩⟩ := cpuStep_cases s t h
  · exact hf
  · cases hr; cases hcode
  · rw [finish_fault] at hr
    obtain ⟨code, addr, rfl, -, hne⟩ := exec_faulted (s := s.advance) hu hs (by simp [hr])
    cases hr
    exact absurd hcode hne

/-- Settles O6: the failed check answers the record, and nothing else in a step answers one of that code. -/
theorem fetchOutsideProgramFaultsFetchRange : Obligations.FetchOutsideProgramFaultsFetchRange := by
  rintro s _ rfl hready
  refine (fetchFails_iff s.takeInputs.advance).symm.trans ⟨fun hf => ?_, fun ⟨t, h, hfault, _⟩ => ?_⟩
  · exact ⟨_, cpuStep_of_fetchFails hready hf, rfl, rfl⟩
  · exact fetchFails_of_fetchRange h hfault rfl

/-! ## The machine that has no step -/

/-- Where a load or a reload readies a machine, it has succeeded (R407). -/
theorem exists_ok_of_ready_orKept {s : State} {r : Except LoadError State} (hs : ¬ s.Ready) (h : (s.orKept r).Ready) :
    ∃ t, r = .ok t := by
  cases r with
  | ok t => exact ⟨t, rfl⟩
  | error e => exact absurd h hs

/-- Settles O8: the two guards of the step, and the clock reading and the key set, on which readiness does not depend. -/
theorem faultedOrHaltedMachineHasNoStep : Obligations.FaultedOrHaltedMachineHasNoStep := by
  refine ⟨?faulted, ?halted, fun s a hs h => ?ready⟩
  case faulted =>
    rintro s _ rfl hf
    simp [step_eq, cpuStep, Option.isSome_iff_ne_none.mpr hf]
  case halted =>
    rintro s _ rfl hf hh
    simp [step_eq, cpuStep, hf, hh]
  case ready =>
    cases a with
    | clock now => exact absurd h hs
    | keys down => exact absurd h hs
    | load rom =>
      obtain ⟨t, ht⟩ := exists_ok_of_ready_orKept hs h
      exact .inr ⟨rom, t, rfl, ht⟩
    | reload => exact .inl ⟨rfl, exists_ok_of_ready_orKept hs h⟩

/-! ## The step result -/

/-- The sync-sensitive instructions are those R138 lists. -/
theorem syncSensitive_iff (i : Instr) : syncSensitive i = true ↔
    i = .cls ∨ (∃ x y n, i = .drw x y n) ∨ (∃ n, i = .scd n) ∨ i = .scr ∨ i = .scl ∨ i = .low ∨ i = .high ∨
      ∃ x, i = .ldVxK x := by
  cases i <;> simp [syncSensitive]

/-- `needs_sync` is true exactly under Vip for a sync-sensitive instruction (R138). -/
theorem needsSync_iff (c : Config) (i : Instr) : needsSync c i = true ↔ c.profile = .vip ∧ syncSensitive i = true := by
  simp [needsSync]

/-- A step that leaves no fault ran the fetched instruction and returns its result (R137, R141). -/
theorem cpuStep_result {s t : State} (h : cpuStep s = .next t) (ht : t.fault = none) :
    ∃ i, decode s.cfg (fetchWord s.advance) = .ok i ∧ t.result = some (stepResult t.cfg i) := by
  obtain ⟨-, -, ⟨-, rfl⟩ | ⟨-, e, -, rfl⟩ | ⟨-, i, hd, u, -, rfl⟩⟩ := cpuStep_cases s t h
  · cases ht
  · cases ht
  · rw [finish_fault] at ht
    exact ⟨i, hd, by simp [finish_of_none i u ht]⟩

/-- Settles O9: the two signals read from their definitions, and the step that recorded them. -/
theorem stepResultSignals : Obligations.StepResultSignals := by
  refine ⟨fun c i => ?_, fun c i => beq_iff_eq, fun s t h ht => ?_⟩
  · rw [← syncSensitive_iff]
    exact needsSync_iff c i
  · obtain ⟨i, hd, hres⟩ := cpuStep_result h ht
    exact ⟨s.takeInputs.advance, i, rfl, hd, hres⟩

end Sys2Proof.Machine
end

section
/-! PROOF. Control flow: O20 to O25. -/

namespace Sys2Proof.Machine
open Laws.FieldsInWord

/-! ## The word of an instruction decodes on every machine -/

/-- The word of a well-formed baseline or SUPER-CHIP instruction. The configuration touches neither the word nor its decoding, so
any one of them serves (R104). -/
theorem decodes_of_encode {i : Instr} {w : Word} (hi : ¬ IsC8E i) (hwf : i.wellFormed Config.default = true)
    (hw : encode Config.default i = some w) : Decodes w i :=
  decodes_of_decodeBase (decodeBase_of_fields hi hwf (fields_of_encode i Config.default w hw))

/-- A 0x0 word of no other row is one of SYS (R104). -/
theorem wellFormed_sys (cfg : Config) {nnn : Addr}
    (hfixed : nnn ∉ [0x0E0#12, 0x0EE#12, 0x0FB#12, 0x0FC#12, 0x0FD#12, 0x0FE#12, 0x0FF#12])
    (hscd : nnn.extractLsb' 4 8 ≠ 0x0C#8) : (Instr.sys nnn).wellFormed cfg = true := by
  simp_all [Instr.wellFormed, claimed0]

/-! ## Transfers of control -/

/-- After `goto(T)` the next step fetches at `T`, modulo 0x1000 (R33). -/
theorem goto_fetchAddr (s : State) (t : Nat) : ((s.goto t).pc.toNat + 2) % 0x1000 = t % 0x1000 := by
  rw [goto_pc]
  calc ((BitVec.ofNat 12 t - 2#12).toNat + 2) % 0x1000 = (BitVec.ofNat 12 t - 2#12 + 2#12).toNat :=
        (BitVec.toNat_add _ 2#12).symm
    _ = t % 0x1000 := by rw [BitVec.sub_add_cancel, BitVec.toNat_ofNat]

theorem goto_fetchAddr_addr (s : State) (nnn : Addr) : ((s.goto nnn.toNat).pc.toNat + 2) % 0x1000 = nnn.toNat :=
  (goto_fetchAddr s nnn.toNat).trans (Nat.mod_eq_of_lt nnn.isLt)

theorem skipIf_eq (s : State) (c : Bool) : s.skipIf c = { s with pc := if c then s.pc + 2#12 else s.pc } := by
  cases c <;> rfl

theorem skipIf_beq (s : State) (a b : Byte) :
    s.skipIf (a == b) = { s with pc := if a = b then s.pc + 2#12 else s.pc } := by simp [skipIf_eq]

theorem skipIf_bne (s : State) (a b : Byte) :
    s.skipIf (a != b) = { s with pc := if a = b then s.pc else s.pc + 2#12 } := by simp [skipIf_eq]

theorem offsetReg_vip {c : Config} (h : c.profile = .vip) (nnn : Addr) : offsetReg c nnn = 0#4 := by
  simp only [offsetReg, h]

theorem offsetReg_sChip {c : Config} (h : c.profile = .sChip) (nnn : Addr) :
    offsetReg c nnn = nnn.extractLsb' 8 4 := by
  simp only [offsetReg, h]

/-! ## The call stack -/

/-- The stack has a slot for every depth below `STACK_MAX` (R35). -/
theorem stackMax_le (c : Config) : c.stackMax ≤ 16 := by
  rw [Config.stackMax]
  split <;> decide

/-- The caller's address on the stack, at one more than the old depth (R163). -/
def State.pushPc (s : State) : State := { s with stack := s.stack.setIfInBounds s.sp s.pc, sp := s.sp + 1 }

theorem pushPc_stack_same {s : State} (h : s.sp < s.cfg.stackMax) : s.pushPc.stack[s.sp]? = some s.pc :=
  Vector.getElem?_setIfInBounds_self_of_lt (Nat.lt_of_lt_of_le h (stackMax_le s.cfg))

theorem pushPc_stack_ne (s : State) {k : Nat} (h : k ≠ s.sp) : s.pushPc.stack[k]? = s.stack[k]? :=
  Vector.getElem?_setIfInBounds_ne h.symm

theorem exec_call_of_lt {s : State} (h : s.sp < s.cfg.stackMax) (nnn : Addr) :
    exec (.call nnn) s = .next (s.pushPc.goto nnn.toNat) :=
  if_neg (Nat.not_le.mpr h)

theorem exec_call_of_full {s : State} (h : s.sp = s.cfg.stackMax) (nnn : Addr) :
    exec (.call nnn) s = raise .stackOverflow none s :=
  if_pos h.ge

/-- RET on a stack whose last entry is `a` (R161). -/
theorem exec_ret_of_last {s : State} {a : Addr} (hsp : 0 < s.sp) (ha : s.stack[s.sp - 1]? = some a) :
    exec .ret s = .next { s with sp := s.sp - 1, pc := a } := by
  have hget : s.stack.getD (s.sp - 1) 0#12 = a := by
    rw [Vector.getD, Array.getD_eq_getD_getElem?, Vector.getElem?_toArray, ha, Option.getD_some]
  calc exec .ret s = .next { s with sp := s.sp - 1, pc := s.stack.getD (s.sp - 1) 0#12 } := if_neg hsp.ne'
    _ = _ := by rw [hget]

theorem exec_ret_of_empty {s : State} (h : s.sp = 0) : exec .ret s = raise .stackUnderflow none s := if_pos h

/-! ## The statements -/

/-- Settles O24: the depth that CALL leaves is not 0, and the last entry there is the call's own address. -/
theorem callThenReturnRestoresPc : Obligations.CallThenReturnRestoresPc := by
  intro s t u nnn hlt hcall husp hustack _
  cases (exec_call_of_lt hlt nnn).symm.trans hcall
  have hsp : u.sp = s.sp + 1 := husp
  have hlast : u.stack[u.sp - 1]? = some s.pc := by
    rw [hsp, hustack]
    exact pushPc_stack_same hlt
  exact ⟨_, exec_ret_of_last (by omega) hlast, rfl, by simp [hsp], rfl⟩

/-- Settles O20: the words that the other 0x0 rows claim are those excluded. -/
theorem sysIsNoOperation : Obligations.SysIsNoOperation := fun _ _ =>
  ⟨fun hfixed hscd => decodes_of_encode id (wellFormed_sys _ hfixed hscd) rfl, rfl⟩

/-- Settles O21: both are a `goto`, and the profile picks the offset register of BNNN. -/
theorem jumpsGoToTheirTarget : Obligations.JumpsGoToTheirTarget := by
  intro s nnn
  refine ⟨decodes_of_encode id rfl rfl, decodes_of_encode id rfl rfl,
    ⟨_, rfl, goto_fetchAddr_addr s nnn, rfl⟩, ⟨_, rfl, rfl, fun hvip => ?vip, fun hsChip => ?sChip⟩⟩
  case vip => rw [goto_fetchAddr, offsetReg_vip hvip]
  case sChip => rw [goto_fetchAddr, offsetReg_sChip hsChip]

/-- Settles O22: below `STACK_MAX` the call is a push and a `goto`. -/
theorem callPushesItsAddress : Obligations.CallPushesItsAddress := by
  intro s nnn
  refine ⟨decodes_of_encode id rfl rfl, fun hlt => ?pushes, fun hfull => ?overflows⟩
  case pushes =>
    exact ⟨_, exec_call_of_lt hlt nnn, pushPc_stack_same hlt, fun k hk => pushPc_stack_ne s hk, rfl,
      goto_fetchAddr_addr s.pushPc nnn, rfl⟩
  case overflows => exact ⟨_, exec_call_of_full hfull nnn⟩

/-- Settles O23: a depth from 1 to `STACK_MAX` has a last entry. -/
theorem returnPopsTheCaller : Obligations.ReturnPopsTheCaller := by
  intro s
  refine ⟨decodes_of_encode id rfl rfl, fun hpos hle => ?pops, fun hempty => ?underflows⟩
  case pops =>
    have hin : s.sp - 1 < 16 := by
      have := stackMax_le s.cfg
      omega
    have hlast : s.stack[s.sp - 1]? = some s.stack[s.sp - 1] := Vector.getElem?_eq_getElem hin
    exact ⟨_, exec_ret_of_last hpos hlast, hlast.symm, rfl, rfl⟩
  case underflows => exact ⟨_, exec_ret_of_empty hempty⟩

/-- Settles O25: each is a `skipIf` of its comparison; the two of SNE have the branches of SE exchanged. -/
theorem compareSkips : Obligations.CompareSkips := by
  intro s x y nn
  refine ⟨decodes_of_encode id rfl rfl, decodes_of_encode id rfl rfl, decodes_of_encode id rfl rfl,
    decodes_of_encode id rfl rfl, ?seVxNn, ?sneVxNn, ?seVxVy, ?sneVxVy⟩
  case seVxNn => exact congrArg _ (skipIf_beq s (s.reg x) nn)
  case sneVxNn => exact congrArg _ (skipIf_bne s (s.reg x) nn)
  case seVxVy => exact congrArg _ (skipIf_beq s (s.reg x) (s.reg y))
  case sneVxVy => exact congrArg _ (skipIf_bne s (s.reg x) (s.reg y))

end Sys2Proof.Machine
end

section
/-! PROOF. Register arithmetic and logic: O26 to O30. -/

namespace Sys2Proof.Machine
open Laws.FieldsInWord

/-! ## The register writes -/

section
variable {i : Instr} {s : State} {x : Reg} {b f : Byte}

theorem writesRegs_of_setReg (h : exec i s = .next (s.setReg x b)) :
    WritesRegs i s fun z => if z = x then b else s.reg z :=
  ⟨_, h, fun z => reg_setReg s x z b, rfl⟩

/-- The flag is written last, so it survives when `x = F` (D7). -/
theorem writesRegs_of_setRegFlag (h : exec i s = .next (s.setRegFlag x b f)) :
    WritesRegs i s fun z => if z = VF then f else if z = x then b else s.reg z :=
  ⟨_, h, fun z => reg_setRegFlag s x z b f, rfl⟩

theorem setRegLogic_frame (s : State) (x : Reg) (b : Byte) :
    s.setRegLogic x b = { s with v := (s.setRegLogic x b).v } := by
  unfold State.setRegLogic
  split <;> rfl

theorem writesRegs_of_setRegLogic (h : exec i s = .next (s.setRegLogic x b)) :
    WritesRegs i s fun z => if s.cfg.profile = .vip ∧ z = VF then 0#8 else if z = x then b else s.reg z := by
  refine ⟨_, h, fun z => ?_, setRegLogic_frame s x b⟩
  simp only [reg_setRegLogic, and_comm]

end

/-! ## Byte arithmetic in natural numbers (R190) -/

section
variable (a b : Byte)

theorem byte_add_eq : a + b = BitVec.ofNat 8 ((a.toNat + b.toNat) % 256) := by
  apply BitVec.eq_of_toNat_eq
  simp

theorem byte_sub_eq : a - b = BitVec.ofNat 8 ((a.toNat + 256 - b.toNat) % 256) := by
  apply BitVec.eq_of_toNat_eq
  have := b.isLt
  rw [BitVec.toNat_sub, BitVec.toNat_ofNat]
  omega

theorem byte_shiftRight_one_eq : a >>> 1 = BitVec.ofNat 8 (a.toNat / 2) := by
  apply BitVec.eq_of_toNat_eq
  rw [BitVec.toNat_ushiftRight, BitVec.toNat_ofNat, Nat.shiftRight_eq_div_pow]
  omega

theorem byte_shiftLeft_one_eq : a <<< 1 = BitVec.ofNat 8 (a.toNat * 2 % 256) := by
  apply BitVec.eq_of_toNat_eq
  simp [Nat.shiftLeft_eq]

/-! ## The flags in natural numbers (R32) -/

theorem flagByte_decide (p : Prop) [Decidable p] : flagByte (decide p) = if p then 1#8 else 0#8 := by
  simp [flagByte]

theorem carryFlag_eq : carryFlag a b = if a.toNat + b.toNat ≥ 256 then 1#8 else 0#8 := flagByte_decide _

theorem noBorrowFlag_eq : noBorrowFlag a b = if a.toNat ≥ b.toNat then 1#8 else 0#8 := flagByte_decide _

theorem shiftedOutRight_eq : shiftedOutRight a = BitVec.ofNat 8 (a.toNat % 2) := by
  apply BitVec.eq_of_toNat_eq
  have hmod : (a &&& 1#8).toNat = a.toNat % 2 := (BitVec.toNat_and a 1#8).trans (Nat.and_one_is_mod a.toNat)
  rw [shiftedOutRight, hmod, BitVec.toNat_ofNat]
  omega

theorem shiftedOutLeft_eq : shiftedOutLeft a = BitVec.ofNat 8 (a.toNat / 128) := by
  apply BitVec.eq_of_toNat_eq
  rw [shiftedOutLeft, BitVec.toNat_ushiftRight, BitVec.toNat_ofNat, Nat.shiftRight_eq_div_pow]
  omega

end

/-- The source of a shift by the profile (R199, R201). -/
theorem shiftSource_eq (s : State) (x y : Reg) :
    s.shiftSource x y = if s.cfg.profile = .vip then s.reg y else s.reg x := by
  cases h : s.cfg.profile <;> simp [State.shiftSource, h]

/-! ## The statements -/

/-- Settles O26: each is one register write, and the byte sum is the sum modulo 256. -/
theorem loadsAndAddImmediate : Obligations.LoadsAndAddImmediate := by
  intro s x y nn
  refine ⟨decodes_of_encode id rfl rfl, decodes_of_encode id rfl rfl, decodes_of_encode id rfl rfl,
    writesRegs_of_setReg rfl, ?add, writesRegs_of_setReg rfl⟩
  case add =>
    rw [← byte_add_eq]
    exact writesRegs_of_setReg rfl

/-- Settles O27: the three share one write, which the profile decides about VF. -/
theorem bitwiseLogic : Obligations.BitwiseLogic := fun _ _ _ =>
  ⟨decodes_of_encode id rfl rfl, decodes_of_encode id rfl rfl, decodes_of_encode id rfl rfl,
    writesRegs_of_setRegLogic rfl, writesRegs_of_setRegLogic rfl, writesRegs_of_setRegLogic rfl⟩

/-- Settles O28: a byte sum or difference and its flag, both read in natural numbers. -/
theorem addAndSubtractWithFlag : Obligations.AddAndSubtractWithFlag := by
  intro s x y
  refine ⟨decodes_of_encode id rfl rfl, decodes_of_encode id rfl rfl, decodes_of_encode id rfl rfl, ?add, ?sub, ?subn⟩
  case add =>
    rw [← byte_add_eq, ← carryFlag_eq]
    exact writesRegs_of_setRegFlag rfl
  case sub | subn =>
    rw [← byte_sub_eq, ← noBorrowFlag_eq]
    exact writesRegs_of_setRegFlag rfl

/-- Settles O29: a one-place shift halves or doubles its source, and the bit lost is the remainder or the top bit. -/
theorem shiftsWithFlag : Obligations.ShiftsWithFlag := by
  rintro s x y src hsrc
  obtain rfl : src = s.shiftSource x y := hsrc.trans (shiftSource_eq s x y).symm
  refine ⟨decodes_of_encode id rfl rfl, decodes_of_encode id rfl rfl, ?shr, ?shl⟩
  case shr =>
    rw [← shiftedOutRight_eq, ← byte_shiftRight_one_eq]
    exact writesRegs_of_setRegFlag rfl
  case shl =>
    rw [← shiftedOutLeft_eq, ← byte_shiftLeft_one_eq]
    exact writesRegs_of_setRegFlag rfl

/-- Settles O30: one register write beside the draw counter; a mask of 0 leaves nothing of the draw. -/
theorem randomByteIsMasked : Obligations.RandomByteIsMasked := by
  intro s x nn
  refine ⟨decodes_of_encode id rfl rfl, _, rfl, fun z => reg_setReg s x z _, ?masked, rfl⟩
  case masked =>
    rintro rfl
    exact (reg_setReg s x x _).trans ((if_pos rfl).trans BitVec.and_zero)

end Sys2Proof.Machine
end

section
/-! PROOF. Address register, memory transfers, timers and keys: O31 to O35, O37, O40 and O41. -/

namespace Sys2Proof.Machine

/-! ## The faults -/

section
variable {i : Instr} {s : State} {k : Result}

theorem faultsWith_operand {v m : Nat} (he : exec i s = operandCheck (decide (v ≤ m)) s k) (h : v > m) :
    FaultsWith i s .operand none :=
  ⟨_, he.trans (operandCheck_of_gt v m s k h)⟩

/-- An access that does not lie inside the region is reported at its start, where that is outside, or at the end of the region
(R78). -/
theorem firstOutside_eq_lowestOutside {lo hi a n : Nat} (hn : 0 < n) (h : ¬ (lo ≤ a ∧ a + n ≤ hi)) :
    firstOutside lo hi a n = some (lowestOutside lo hi a) := by
  rw [firstOutside_eq_some, lowestOutside]
  split
  case isTrue hbelow => exact ⟨by omega, by omega, by omega, fun b hb hb' => by omega⟩
  case isFalse habove => exact ⟨by omega, by omega, by omega, fun b hb hb' => by omega⟩

theorem checked_of_firstOutside {r : Region} {a n bad : Nat} (h : firstOutside r.lo s.cfg.memSize a n = some bad) :
    checked r a n s k = raise .memRange (some bad) s := by
  simp only [checked, h]

/-- The range check of the `n + 1` bytes from `a` in the data segment (R77, R78). -/
theorem faultsWith_memRange {a n : Nat} (he : exec i s = checked .data a (n + 1) s k)
    (h : ¬ (0x200 ≤ a ∧ a + n < s.cfg.memSize)) :
    FaultsWith i s .memRange (some (lowestOutside 0x200 s.cfg.memSize a)) :=
  ⟨_, he.trans (checked_of_firstOutside (firstOutside_eq_lowestOutside n.succ_pos h))⟩

end

/-! ## The bytes of a store -/

section
variable {s : State} {a : Nat} {bs : List Byte}

theorem byte_storeBytes_inside (hm : s.mem.Pairwise (fun c d => c.1 < d.1)) {k : Nat} (hk : k < bs.length) :
    (s.storeBytes a bs).byte (a + k) = bs.getD k 0#8 := by
  rw [byte_storeBytes s hm, if_pos (by omega), Nat.add_sub_cancel_left]

theorem byte_storeBytes_outside (hm : s.mem.Pairwise (fun c d => c.1 < d.1)) {b : Nat}
    (hb : b < a ∨ a + bs.length ≤ b) : (s.storeBytes a bs).byte b = s.byte b := by
  rw [byte_storeBytes s hm, if_neg (by omega)]

end

/-- The three digits of a byte: it is below 1000, so its hundreds are one digit (R223). -/
theorem decimalDigits_byte (b : Byte) : decimalDigits b.toNat 3 =
    [BitVec.ofNat 8 (b.toNat / 100), BitVec.ofNat 8 (b.toNat / 10 % 10), BitVec.ofNat 8 (b.toNat % 10)] := by
  have hhundreds : b.toNat / 100 % 10 = b.toNat / 100 := Nat.mod_eq_of_lt (by omega)
  simp [decimalDigits, hhundreds]

/-- FX33 whose bytes all lie in the data region completes (R223). -/
theorem exec_ldB (s : State) (x : Reg) (hlo : programBase ≤ s.i.toNat) (hhi : s.i.toNat + 2 < s.cfg.memSize) :
    exec (.ldB x) s = .next (s.storeBytes s.i.toNat [BitVec.ofNat 8 ((s.reg x).toNat / 100),
      BitVec.ofNat 8 ((s.reg x).toNat / 10 % 10), BitVec.ofNat 8 ((s.reg x).toNat % 10)]) := by
  rw [← decimalDigits_byte]
  exact checked_of_inside .data _ _ s _ hlo hhi

/-! ## The Vip increment of `I` (R224, R225) -/

section
variable (s : State) (x : Reg)

theorem bumpI_i_vip (h : s.cfg.profile = .vip) : (s.bumpI x).i.toNat = (s.i.toNat + x.toNat + 1) % 0x1000 := by
  simp only [State.bumpI, h]
  exact BitVec.toNat_ofNat _ 12

theorem bumpI_i_sChip (h : s.cfg.profile = .sChip) : (s.bumpI x).i = s.i := by
  simp only [State.bumpI, h]

theorem bumpI_frame : s.bumpI x = { s with i := (s.bumpI x).i } := by
  unfold State.bumpI
  split <;> rfl

end

/-- The registers that FX65 loads, and those it leaves (R225). -/
theorem reg_loadBytes (s : State) (a : Nat) (x k : Reg) :
    State.reg { s with v := setFrom s.v 0 (s.bytes a (x.toNat + 1)) } k =
      if k.toNat ≤ x.toNat then s.byte (a + k.toNat) else s.reg k := by
  have hset := getElem_setFrom (s.bytes a (x.toNat + 1)) s.v 0 k.toNat k.isLt
  rw [State.reg, hset, length_bytes]
  by_cases hk : k.toNat ≤ x.toNat
  · rw [if_pos (by omega), if_pos hk, Nat.sub_zero, getD_bytes _ _ _ _ (by omega)]
  · rw [if_neg (by omega), if_neg hk, State.reg]

/-! ## Timers and keys -/

/-- FX07 writes the value read, and leaves the capture that the read leaves (R226). -/
theorem exec_ldVxDt {s : State} {c : TimerCapture} (h : s.dt = c) (x : Reg) : exec (.ldVxDt x) s =
    .next (State.setReg { s with dt := (timerGet s.cfg.tickUs c s.now).1 } x (timerGet s.cfg.tickUs c s.now).2) := by
  subst h
  rfl

/-- The capture that reading a running timer leaves (R421). -/
theorem timerGet_running_capture (tick : Nat) (v : Byte) (t0 now : Nat) : (timerGet tick (.running v t0) now).1 =
    if (now - t0) / tick ≥ v.toNat then .idle else .running v t0 := by
  unfold timerGet elapsedTicks
  dsimp only
  split <;> rfl

/-- A register that holds a key code passes the operand check, and its low four bits are the key (R229). -/
theorem withKey_of_key {s : State} {x : Reg} {key : Nibble} (h : key.toNat = (s.reg x).toNat)
    (k : Nibble → State → Result) : withKey x s k = k key { s with hints := s.hints.insert key } := by
  have hkey : (s.reg x).setWidth 4 = key := by
    apply BitVec.eq_of_toNat_eq
    rw [BitVec.toNat_setWidth, ← h, Nat.mod_eq_of_lt key.isLt]
  rw [withKey, hkey]
  exact operandCheck_of_le _ _ _ _ (by omega)

theorem skipIf_not (s : State) (c : Bool) : s.skipIf (!c) = { s with pc := if c then s.pc else s.pc + 2#12 } := by
  cases c <;> rfl

section
variable {s : State} {x : Reg} {k : Nibble} (h : k.toNat = (s.reg x).toNat)
include h

theorem exec_skp_of_key : exec (.skp x) s =
    .next { s with hints := s.hints.insert k, pc := if s.down.has k then s.pc + 2#12 else s.pc } := by
  change execSkp x s = _
  rw [execSkp, withKey_of_key h, skipIf_eq]

theorem exec_sknp_of_key : exec (.sknp x) s =
    .next { s with hints := s.hints.insert k, pc := if s.down.has k then s.pc else s.pc + 2#12 } := by
  change execSknp x s = _
  rw [execSknp, withKey_of_key h, skipIf_not]

end

theorem has_insert_iff (ks : KeySet) (k j : Nibble) : (ks.insert k).has j = true ↔ j = k ∨ ks.has j = true := by simp

/-- FX0A with a key reported (R231). -/
theorem exec_ldVxK_of_some {s : State} {armed : Bool} {k : Nibble}
    (h : keypadQuery s.down s.armed = (armed, some k)) (x : Reg) :
    exec (.ldVxK x) s = .next (State.setReg { s with armed := armed } x (k.setWidth 8)) := by
  change execLdVxK x s = _
  simp only [execLdVxK, h]

/-- FX0A with no key reported (R231, R142). -/
theorem exec_ldVxK_of_none {s : State} {armed : Bool} (h : keypadQuery s.down s.armed = (armed, none)) (x : Reg) :
    exec (.ldVxK x) s = .next { s with armed := armed, pc := s.pc - 2#12 } := by
  change execLdVxK x s = _
  simp only [execLdVxK, h]
  rfl

/-- A detector that is not armed reports no key while one is down, and stays so (R432). -/
theorem keypadQuery_unarmed {down : KeySet} {j : Nibble} (hj : down.has j = true) :
    keypadQuery down false = (false, none) := by
  by_cases hone : ∀ k, down.has k = true ↔ k = j
  · exact keypadQuery_one down false j hone
  · obtain ⟨k, hk, hne⟩ : ∃ k, down.has k = true ∧ k ≠ j := by
      by_contra hno
      push Not at hno
      exact hone fun k => ⟨hno k, fun e => e ▸ hj⟩
    exact keypadQuery_many down false k j hk hj hne

/-! ## The statements -/

/-- Settles O31: the 12-bit sum is the sum modulo 0x1000. -/
theorem addressRegisterWrites : Obligations.AddressRegisterWrites := by
  intro s x nnn
  refine ⟨decodes_of_encode id rfl rfl, decodes_of_encode id rfl rfl, rfl, _, rfl, ?sum, rfl⟩
  case sum =>
    rw [setI_i, BitVec.toNat_add, BitVec.toNat_setWidth]
    omega

/-- Settles O32: past the operand check, a glyph's address is a 12-bit number. -/
theorem fontLookups : Obligations.FontLookups := by
  intro s x
  refine ⟨decodes_of_encode id rfl rfl, decodes_of_encode id rfl rfl, fun hle => ⟨?low, ?high⟩,
    fun hgt => ⟨faultsWith_operand rfl hgt, faultsWith_operand rfl hgt⟩⟩
  case low => exact ⟨_, operandCheck_of_le _ _ _ _ hle, BitVec.toNat_ofNat _ _, rfl⟩
  case high => exact ⟨_, operandCheck_of_le _ _ _ _ hle, BitVec.toNat_ofNat _ _, rfl⟩

/-- Settles O33: past the range check, it is a store of three digits. -/
theorem bcdStore : Obligations.BcdStore := by
  rintro s x ⟨hm, -⟩
  refine ⟨decodes_of_encode id rfl rfl, fun hlo hhi => ?stores, fun hout => faultsWith_memRange (n := 2) rfl hout⟩
  case stores =>
    exact ⟨_, exec_ldB s x hlo hhi, byte_storeBytes_inside hm (k := 0) (by simp), byte_storeBytes_inside hm (k := 1) (by simp),
      byte_storeBytes_inside hm (k := 2) (by simp), fun a ha => byte_storeBytes_outside hm ha, rfl⟩

/-- Settles O34: past the range check, it is a store of the registers and the increment of `I`. -/
theorem bulkRegisterStore : Obligations.BulkRegisterStore := by
  rintro s x ⟨hm, -⟩
  refine ⟨decodes_of_encode id rfl rfl, fun hlo hhi => ?stores, fun hout => faultsWith_memRange rfl hout⟩
  case stores =>
    have hexec := exec_ldMiVx hlo hhi
    refine ⟨_, hexec, fun k hk => byte_ldMiVx hm hlo hhi hexec hk, fun a ha => ?frame,
      fun hvip => bumpI_i_vip _ x hvip, fun hsChip => bumpI_i_sChip _ x hsChip, ?rest⟩
    case frame =>
      rw [byte_congr _ _ (bumpI_mem _ x) (bumpI_cfg _ x)]
      exact byte_storeBytes_outside hm (by rw [length_regsUpTo]; omega)
    case rest =>
      rw [bumpI_mem]
      exact bumpI_frame _ x

/-- Settles O35: past the range check, it is a write of the registers and the increment of `I`. -/
theorem bulkRegisterLoad : Obligations.BulkRegisterLoad := by
  intro s x
  refine ⟨decodes_of_encode id rfl rfl, fun hlo hhi => ?loads, fun hout => faultsWith_memRange rfl hout⟩
  case loads =>
    refine ⟨_, checked_of_inside .data _ _ s _ hlo hhi, fun k => ?regs, fun hvip => bumpI_i_vip _ x hvip,
      fun hsChip => bumpI_i_sChip _ x hsChip, ?rest⟩
    case regs =>
      rw [reg_congr _ _ (bumpI_v _ x)]
      exact reg_loadBytes s s.i.toNat x k
    case rest =>
      rw [bumpI_v]
      exact bumpI_frame _ x

/-- Settles O37: a read of DT is a register write beside the capture it leaves. -/
theorem timerInstructions : Obligations.TimerInstructions := by
  intro s x
  refine ⟨decodes_of_encode id rfl rfl, decodes_of_encode id rfl rfl, decodes_of_encode id rfl rfl, fun hidle => ?idle,
    fun v t0 hrun => ?running, rfl, rfl⟩
  case idle =>
    apply writesRegs_of_setReg
    rw [exec_ldVxDt hidle, timerGet_idle, ← hidle]
  case running =>
    refine ⟨_, exec_ldVxDt hrun x, ?value, fun z hz => ?others, timerGet_running_capture _ v t0 _, rfl⟩
    case value =>
      rw [reg_setReg, if_pos rfl]
      exact timerGet_value s.cfg.tickUs v t0 s.now
    case others =>
      rw [reg_setReg, if_neg hz]
      rfl

/-- Settles O40: a key code is recorded and its skip taken; the two of EXA1 have the branches of EX9E exchanged. -/
theorem keySkips : Obligations.KeySkips := by
  intro s x
  refine ⟨decodes_of_encode id rfl rfl, decodes_of_encode id rfl rfl, fun k hk => ⟨?skp, ?sknp⟩,
    fun hgt => ⟨faultsWith_operand rfl hgt, faultsWith_operand rfl hgt⟩⟩
  case skp => exact ⟨_, exec_skp_of_key hk, has_insert_iff s.hints k, rfl⟩
  case sknp => exact ⟨_, exec_sknp_of_key hk, has_insert_iff s.hints k, rfl⟩

/-- Settles O41: the detector's answer decides whether the instruction completes. -/
theorem keyWaitCompletesOrWaits : Obligations.KeyWaitCompletesOrWaits := by
  intro s x
  refine ⟨decodes_of_encode id rfl rfl, ?one, fun hnone => exec_ldVxK_of_none (keypadQuery_none _ _ hnone) x,
    ?unarmed, ?many⟩
  case one =>
    intro k harmed hone
    have hquery : keypadQuery s.down s.armed = (false, some k) := by
      rw [keypadQuery_one _ _ k hone, if_pos harmed]
    refine ⟨_, exec_ldVxK_of_some hquery x, ?value, fun z hz => ?others, rfl⟩
    case value =>
      rw [reg_setReg, if_pos rfl]
      exact BitVec.toNat_setWidth_of_le (by decide)
    case others =>
      rw [reg_setReg, if_neg hz]
      rfl
  case unarmed =>
    rintro ⟨j, hj⟩ harmed
    have hquery : keypadQuery s.down s.armed = (s.armed, none) := by rw [harmed, keypadQuery_unarmed hj]
    exact exec_ldVxK_of_none hquery x
  case many =>
    rintro ⟨j, k, hne, hj, hk⟩
    exact exec_ldVxK_of_none (keypadQuery_many _ _ j k hj hk hne) x

end Sys2Proof.Machine
end

section
/-! PROOF. The display: O42 to O45 and O47. -/

namespace Sys2Proof.Machine

/-! ## Pixels determine a grid -/

/-- Two framebuffers of one size with the same pixels are equal (R38). -/
theorem Sized.ext {w h : Nat} {fb fb' : Framebuffer} (hs : Sized w h fb) (hs' : Sized w h fb')
    (hp : ∀ x y, pixel fb x y = pixel fb' x y) : fb = fb' := by
  refine List.ext_getElem (hs.1.trans hs'.1.symm) fun y hy hy' => ?_
  have hlen := hs.2 fb[y] (List.getElem_mem hy)
  have hlen' := hs'.2 fb'[y] (List.getElem_mem hy')
  refine List.ext_getElem (hlen.trans hlen'.symm) fun x hx hx' => ?_
  simpa [pixel, hy, hy', hx, hx'] using hp x y

/-! ## The destinations of a sprite -/

section
variable {mode : SpriteMode} {w h x0 y0 wbits : Nat}

/-- In Clip mode a place on the grid is its own destination, and one off the grid has none (R263). -/
theorem spriteDest_clip_eq_some_iff {qx qy px py : Nat} : spriteDest .clip w h qx qy = some (px, py) ↔
    px = qx ∧ py = qy ∧ px < w ∧ py < h := by
  simp only [spriteDest, Option.ite_none_right_eq_some, Option.some.injEq, Prod.mk.injEq]
  constructor
  · rintro ⟨⟨hx, hy⟩, rfl, rfl⟩
    exact ⟨rfl, rfl, hx, hy⟩
  · rintro ⟨rfl, rfl, hx, hy⟩
    exact ⟨⟨hx, hy⟩, rfl, rfl⟩

/-- In Wrap mode the destination is the place modulo the grid (R264). -/
theorem spriteDest_wrap_eq_some_iff {qx qy px py : Nat} : spriteDest .wrap w h qx qy = some (px, py) ↔
    px = qx % w ∧ py = qy % h := by
  simp only [spriteDest, Option.some.injEq, Prod.mk.injEq, eq_comm]

/-- Two sprite pixels of one origin, no further apart than the grid is large, that have the same destination are the same
(R264). -/
theorem spriteDest_injective {c c' r r' : Nat} {p : Nat × Nat} (hc : c < w) (hc' : c' < w) (hr : r < h) (hr' : r' < h)
    (e : spriteDest mode w h (x0 + c) (y0 + r) = some p) (e' : spriteDest mode w h (x0 + c') (y0 + r') = some p) :
    c = c' ∧ r = r' := by
  obtain ⟨px, py⟩ := p
  cases mode with
  | clip =>
    rw [spriteDest_clip_eq_some_iff] at e e'
    omega
  | wrap =>
    rw [spriteDest_wrap_eq_some_iff] at e e'
    obtain ⟨ex, ey⟩ := e
    obtain ⟨ex', ey'⟩ := e'
    exact ⟨(Nat.ModEq.add_left_cancel' x0 (ex.symm.trans ex')).eq_of_lt_of_lt hc hc',
      (Nat.ModEq.add_left_cancel' y0 (ey.symm.trans ey')).eq_of_lt_of_lt hr hr'⟩

theorem mem_rowDests {row : Nat} {p : Nat × Nat} : p ∈ rowDests mode w h x0 y0 row wbits ↔
    ∃ c < wbits, row.testBit (wbits - 1 - c) = true ∧ spriteDest mode w h (x0 + c) y0 = some p := by
  simp only [rowDests, List.mem_filterMap, List.mem_range, Option.ite_none_right_eq_some]

/-- The destinations of a sprite are those of its set bits (R262). -/
theorem mem_spriteDests {rows : List Nat} {p : Nat × Nat} : p ∈ spriteDests mode w h x0 y0 wbits rows ↔
    ∃ r c, r < rows.length ∧ c < wbits ∧ (rows.getD r 0).testBit (wbits - 1 - c) = true ∧
      spriteDest mode w h (x0 + c) (y0 + r) = some p := by
  induction rows generalizing y0 with
  | nil => simp [spriteDests]
  | cons row rows ih =>
    rw [spriteDests, List.mem_append, mem_rowDests, ih]
    constructor
    · rintro (⟨c, hc, hbit, hdest⟩ | ⟨r, c, hr, hc, hbit, hdest⟩)
      · exact ⟨0, c, by simp, hc, hbit, hdest⟩
      · exact ⟨r + 1, c, by simpa using hr, hc, hbit, by rwa [← Nat.add_assoc, Nat.add_right_comm]⟩
    · rintro ⟨_ | r, c, hr, hc, hbit, hdest⟩
      · exact .inl ⟨c, hc, hbit, hdest⟩
      · exact .inr ⟨r, c, by simpa using hr, hc, hbit, by rwa [Nat.add_right_comm, Nat.add_assoc]⟩

theorem covers_iff_mem {rows : List Nat} {px py : Nat} : Covers mode w h x0 y0 rows wbits px py ↔
    (px, py) ∈ spriteDests mode w h x0 y0 wbits rows := by
  cases mode with
  | clip => simp only [Covers, mem_spriteDests, spriteDest_clip_eq_some_iff]
  | wrap => simp only [Covers, mem_spriteDests, spriteDest_wrap_eq_some_iff]

theorem nodup_rowDests {row : Nat} (hw : wbits ≤ w) (hh : 0 < h) : (rowDests mode w h x0 y0 row wbits).Nodup := by
  rw [rowDests, List.Nodup, List.pairwise_filterMap]
  refine List.Pairwise.imp_of_mem (fun {c c'} hc hc' hlt => ?_) (List.pairwise_lt_range (n := wbits))
  rintro p hp _ hp' rfl
  rw [List.mem_range] at hc hc'
  rw [Option.ite_none_right_eq_some] at hp hp'
  have := spriteDest_injective (y0 := y0) (by omega) (by omega) hh hh hp.2 hp'.2
  omega

/-- A sprite no larger than the grid has no destination twice (R264). -/
theorem nodup_spriteDests {rows : List Nat} (hw : wbits ≤ w) (hh : rows.length ≤ h) :
    (spriteDests mode w h x0 y0 wbits rows).Nodup := by
  induction rows generalizing y0 with
  | nil => exact List.nodup_nil
  | cons row rows ih =>
    rw [List.length_cons] at hh
    refine List.nodup_append.mpr ⟨nodup_rowDests hw (by omega), ih (by omega), ?_⟩
    rintro p hp _ hp' rfl
    obtain ⟨c, hc, -, hdest⟩ := mem_rowDests.mp hp
    obtain ⟨r, c', hr, hc', -, hdest'⟩ := mem_spriteDests.mp hp'
    rw [Nat.add_assoc] at hdest'
    have := spriteDest_injective (r := 0) (by omega) (by omega) (by omega) (by omega) hdest hdest'
    omega

end

/-! ## One draw -/

/-- The sprite `rows` at `(x, y)` covers the pixel `(px, py)` of the effective grid (R262 to R264). -/
def State.Covered (s : State) (x y : Byte) (rows : List Nat) (wbits px py : Nat) : Prop :=
  Covers s.cfg.spriteMode (s.cfg.effW s.hires) (s.cfg.effH s.hires) (x.toNat % s.cfg.effW s.hires)
    (y.toNat % s.cfg.effH s.hires) rows wbits px py

/-- The pixels that `s.draw` toggles, in its order. -/
def State.drawDests (s : State) (x y : Byte) (rows : List Nat) (wbits : Nat) : List (Nat × Nat) :=
  spriteDests s.cfg.spriteMode (s.cfg.effW s.hires) (s.cfg.effH s.hires) (x.toNat % s.cfg.effW s.hires)
    (y.toNat % s.cfg.effH s.hires) wbits rows

section
variable {s : State} {x y : Byte} {rows : List Nat} {wbits : Nat}

theorem covered_iff_mem {px py : Nat} : s.Covered x y rows wbits px py ↔ (px, py) ∈ s.drawDests x y rows wbits :=
  covers_iff_mem

theorem gridSized_draw (hs : s.GridSized) : (s.draw x y rows wbits).1.GridSized := sized_gpuDraw _ _ _ _ hs _ _ _ _

theorem drawDests_inside : ∀ p ∈ s.drawDests x y rows wbits, p.1 < s.cfg.backW ∧ p.2 < s.cfg.backH := by
  intro p hp
  obtain ⟨hx, hy⟩ := spriteDests_inside _ _ _ _ _ (Nat.lt_of_lt_of_le (by decide) (effW_ge s.cfg s.hires))
    (Nat.lt_of_lt_of_le (by decide) (effH_ge s.cfg s.hires)) rows _ p hp
  exact ⟨Nat.lt_of_lt_of_le hx (effW_le_backW ..), Nat.lt_of_lt_of_le hy (effH_le_backH ..)⟩

variable (hs : s.GridSized) (hrows : rows.length ≤ 16) (hbits : wbits ≤ 16)

include hrows hbits in
theorem nodup_drawDests : (s.drawDests x y rows wbits).Nodup := by
  have hw := effW_ge s.cfg s.hires
  have hh := effH_ge s.cfg s.hires
  exact nodup_spriteDests (by omega) (by omega)

include hs hrows hbits

theorem pixel_draw (px py : Nat) : pixel (s.draw x y rows wbits).1.fb px py =
    if (px, py) ∈ s.drawDests x y rows wbits then !pixel s.fb px py else pixel s.fb px py :=
  pixel_togglePixels _ _ _ hs (nodup_drawDests hrows hbits) drawDests_inside px py

theorem pixel_draw_of_covered {px py : Nat} (h : s.Covered x y rows wbits px py) :
    pixel (s.draw x y rows wbits).1.fb px py = !pixel s.fb px py := by
  rw [pixel_draw hs hrows hbits, if_pos (covered_iff_mem.mp h)]

theorem pixel_draw_of_not_covered {px py : Nat} (h : ¬ s.Covered x y rows wbits px py) :
    pixel (s.draw x y rows wbits).1.fb px py = pixel s.fb px py := by
  rw [pixel_draw hs hrows hbits, if_neg fun hmem => h (covered_iff_mem.mpr hmem)]

/-- A draw collides exactly when it covers a set pixel (R265). -/
theorem draw_collides_iff : (s.draw x y rows wbits).2 = true ↔
    ∃ px py, s.Covered x y rows wbits px py ∧ pixel s.fb px py = true := by
  have hcoll : (s.draw x y rows wbits).2 = (false || (s.drawDests x y rows wbits).any fun p => pixel s.fb p.1 p.2) :=
    coll_togglePixels _ _ _ hs (nodup_drawDests hrows hbits) drawDests_inside
  simp only [hcoll, Bool.false_or, List.any_eq_true, Prod.exists, covered_iff_mem]

end

/-- The outcome of a draw instruction, once its rows are read (R281). -/
theorem drawnFrom_drawRows {s : State} (hs : s.GridSized) (x y : Reg) {rows : List Nat} (hrows : rows.length ≤ 16)
    {wbits : Nat} (hbits : wbits ≤ 16) : ∃ t, drawRows x y rows wbits s = .next t ∧ DrawnFrom s t x y rows wbits := by
  have hcoll := draw_collides_iff (x := s.reg x) (y := s.reg y) hs hrows hbits
  refine ⟨_, drawRows_eq x y rows wbits s, fun px py => pixel_draw_of_covered hs hrows hbits,
    fun px py => pixel_draw_of_not_covered hs hrows hbits, fun hset => ?collides, fun hunset => ?clear,
    fun z hz => ?others, gridSized_draw hs, rfl⟩
  case collides => rw [reg_setReg, if_pos rfl, hcoll.mpr hset]; rfl
  case clear => rw [reg_setReg, if_pos rfl, Bool.eq_false_iff.mpr fun h => hunset (hcoll.mp h)]; rfl
  case others => rw [reg_setReg, if_neg hz]; rfl

/-! ## The rows of a sprite -/

/-- The rows of 8 bits are the bytes from `a` (R281). -/
theorem rows8_eq (s : State) (a n : Nat) : s.rows8 a n = (List.range n).map fun r => (s.byte (a + r)).toNat := by
  induction n generalizing a with
  | zero => rfl
  | succ n ih =>
    calc s.rows8 a (n + 1) = (s.byte a).toNat :: s.rows8 (a + 1) n := rfl
      _ = _ := by simp [ih, List.range_succ_eq_map, Nat.add_comm, Nat.add_left_comm]

theorem wordAt_toNat (s : State) (a : Nat) : (s.wordAt a).toNat = (s.byte a).toNat * 256 + (s.byte (a + 1)).toNat := by
  rw [State.wordAt, wordOfBytes, BitVec.toNat_append, ← Nat.shiftLeft_add_eq_or_of_lt (s.byte (a + 1)).isLt,
    Nat.shiftLeft_eq]

/-- The rows of 16 bits are the big-endian words from `a` (R282). -/
theorem rows16_eq (s : State) (a n : Nat) : s.rows16 a n = (List.range n).map fun r =>
    (s.byte (a + 2 * r)).toNat * 256 + (s.byte (a + 2 * r + 1)).toNat := by
  induction n generalizing a with
  | zero => rfl
  | succ n ih =>
    have hnext (r : Nat) : a + 2 * (r + 1) = a + 2 + 2 * r := by omega
    rw [State.rows16, wordAt_toNat, ih]
    simp [List.range_succ_eq_map, hnext]

@[simp] theorem length_rows8 (s : State) (a n : Nat) : (s.rows8 a n).length = n := by simp [rows8_eq]

@[simp] theorem length_rows16 (s : State) (a n : Nat) : (s.rows16 a n).length = n := by simp [rows16_eq]

/-! ## The draw instructions -/

section
variable {i : Instr} {s : State}

/-- A draw instruction whose sprite lies in memory (R281, R282). -/
theorem exec_drawnFrom {a n wbits : Nat} {x y : Reg} {rows : List Nat}
    (he : exec i s = checked .sprite a n s (drawRows x y rows wbits s)) (hs : s.GridSized) (hin : a + n ≤ s.cfg.memSize)
    (hrows : rows.length ≤ 16) (hbits : wbits ≤ 16) : ∃ t, exec i s = .next t ∧ DrawnFrom s t x y rows wbits := by
  rw [he, checked_of_inside .sprite a n s _ (Nat.zero_le a) hin]
  exact drawnFrom_drawRows hs x y hrows hbits

/-- The range check of the `n` bytes of a sprite (R76, R78). -/
theorem faultsWith_memRange_sprite {a n : Nat} {k : Result} (he : exec i s = checked .sprite a n s k) (hn : 0 < n)
    (hout : a + n > s.cfg.memSize) : FaultsWith i s .memRange (some (max a s.cfg.memSize)) :=
  have hfirst : firstOutside 0 s.cfg.memSize a n = some (max a s.cfg.memSize) :=
    firstOutside_eq_lowestOutside hn (by omega)
  ⟨_, he.trans (checked_of_firstOutside hfirst)⟩

variable (x y : Reg)

theorem exec_drw16_vip (h : s.cfg.profile = .vip) : exec (.drw16 x y) s = raise .profile none s := by
  change execDrw16 x y s = _
  simp only [execDrw16, h]

theorem exec_drw16_hires (h : s.cfg.profile = .sChip) (hh : s.hires = true) : exec (.drw16 x y) s =
    checked .sprite s.i.toNat 32 s (drawRows x y (s.rows16 s.i.toNat 16) 16 s) := by
  change execDrw16 x y s = _
  simp only [execDrw16, h, hh, if_true]

theorem exec_drw16_lores (h : s.cfg.profile = .sChip) (hh : s.hires = false) : exec (.drw16 x y) s =
    checked .sprite s.i.toNat 16 s (drawRows x y (s.rows8 s.i.toNat 16) 8 s) := by
  change execDrw16 x y s = _
  simp only [execDrw16, h, hh, if_false, Bool.false_eq_true]

end

/-! ## The statements -/

/-- Settles O43: past the range check it is a draw of the bytes at `I`, whose destinations are distinct. -/
theorem drawTogglesTheCoveredPixels : Obligations.DrawTogglesTheCoveredPixels := by
  intro s x y n hn
  have hpos : 0 < n.toNat := Nat.pos_of_ne_zero fun h => hn (BitVec.eq_of_toNat_eq h)
  refine ⟨decodes_of_encode id (bne_iff_ne.mpr hn) rfl, fun hs hin => ?draws, faultsWith_memRange_sprite rfl hpos⟩
  case draws =>
    rw [← rows8_eq]
    exact exec_drawnFrom rfl hs hin (by rw [length_rows8]; omega) (by decide)

/-- Settles O44: the profile and the resolution pick the outcome. -/
theorem tallDraw : Obligations.TallDraw := by
  intro s x y
  refine ⟨decodes_of_encode id rfl rfl, fun hvip => ⟨_, exec_drw16_vip x y hvip⟩, fun hp hs hhires hin => ?hires,
    fun hp hs hlores hin => ?lores, fun hp hout => ?outside⟩
  case hires =>
    rw [← rows16_eq]
    exact exec_drawnFrom (exec_drw16_hires x y hp hhires) hs hin (by simp) (by decide)
  case lores =>
    rw [← rows8_eq]
    exact exec_drawnFrom (exec_drw16_lores x y hp hlores) hs hin (by simp) (by decide)
  case outside =>
    cases hh : s.hires with
    | true => exact faultsWith_memRange_sprite (exec_drw16_hires x y hp hh) (by decide) (by simpa [hh] using hout)
    | false => exact faultsWith_memRange_sprite (exec_drw16_lores x y hp hh) (by decide) (by simpa [hh] using hout)

/-- Settles O45: both draws invert the same distinct pixels, and the second finds set what the first found unset. -/
theorem drawingTwiceRestoresTheGrid : Obligations.DrawingTwiceRestoresTheGrid := by
  intro s x y rows wbits hs hrows hbits d d'
  have hd : d.1.GridSized := gridSized_draw hs
  have hcovered (px py : Nat) : d.1.Covered x y rows wbits px py ↔ s.Covered x y rows wbits px py := Iff.rfl
  have hinv {px py : Nat} (h : s.Covered x y rows wbits px py) : pixel d.1.fb px py = !pixel s.fb px py :=
    pixel_draw_of_covered hs hrows hbits h
  have hkeep {px py : Nat} (h : ¬ s.Covered x y rows wbits px py) : pixel d.1.fb px py = pixel s.fb px py :=
    pixel_draw_of_not_covered hs hrows hbits h
  constructor
  · have hfb : d'.1.fb = s.fb := by
      refine Sized.ext (gridSized_draw hd) hs fun px py => ?_
      by_cases h : s.Covered x y rows wbits px py
      · rw [pixel_draw_of_covered hd hrows hbits ((hcovered px py).mpr h), hinv h, Bool.not_not]
      · rw [pixel_draw_of_not_covered hd hrows hbits (mt (hcovered px py).mp h), hkeep h]
    calc d'.1 = { s with fb := d'.1.fb } := rfl
      _ = s := by rw [hfb]
  · rw [draw_collides_iff hd hrows hbits]
    refine exists₂_congr fun px py => ?_
    rw [hcovered]
    by_cases h : s.Covered x y rows wbits px py
    · simp [h, hinv h]
    · simp [h, hkeep h]

/-- Settles O47: row `y` of the result is row `y + n` of the grid between, which is row `y` where that exists. -/
theorem scrollDownThenUp : Obligations.ScrollDownThenUp := by
  intro s n _ _ x y hx hy
  have hup : pixel ((s.scroll .down n).scroll .up n).fb x y =
      if y + n < s.cfg.backH then pixel (s.scroll .down n).fb x (y + n) else false :=
    (pixel_grid _ _ _ x y).trans (if_pos ⟨hx, hy⟩)
  have hdown (hin : y + n < s.cfg.backH) : pixel (s.scroll .down n).fb x (y + n) = pixel s.fb x y := by
    refine (pixel_grid _ _ _ x (y + n)).trans ((if_pos ⟨hx, hin⟩).trans ?_)
    dsimp only
    rw [if_pos (Nat.le_add_left n y), Nat.add_sub_cancel]
  rw [hup]
  by_cases hin : y + n < s.cfg.backH
  · rw [if_pos hin, if_pos (by omega), hdown hin]
  · rw [if_neg hin, if_neg (by omega)]

/-- Settles O42: an effective pixel lies in the backing grid, and the clear unsets it. -/
theorem clearUnsetsTheEffectiveGrid : Obligations.ClearUnsetsTheEffectiveGrid := by
  intro s
  refine ⟨decodes_of_encode id rfl rfl, s.clear, rfl, fun x y hx hy => ?unset, sized_grid _ _ _, rfl⟩
  case unset =>
    have hback : x < s.cfg.backW ∧ y < s.cfg.backH :=
      ⟨Nat.lt_of_lt_of_le hx (effW_le_backW ..), Nat.lt_of_lt_of_le hy (effH_le_backH ..)⟩
    exact (pixel_grid _ _ _ x y).trans ((if_pos hback).trans (if_pos ⟨hx, hy⟩))

end Sys2Proof.Machine
end

section
/-! PROOF. The SUPER-CHIP family: O46, O48, O49 and O50. -/

namespace Sys2Proof.Machine

/-! ## The grid -/

/-- An instruction that replaces the backing grid by the one of a pixel function (R266). -/
theorem exec_replacesGrid {i : Instr} {s : State} {f : Nat → Nat → Bool}
    (he : exec i s = .next { s with fb := grid s.cfg.backW s.cfg.backH f }) :
    ∃ t, exec i s = .next t ∧ t.GridSized ∧ t = { s with fb := t.fb } ∧
      ∀ x y, x < s.cfg.backW → y < s.cfg.backH → pixel t.fb x y = f x y :=
  ⟨_, he, sized_grid _ _ _, rfl, fun x y hx hy => (pixel_grid _ _ _ x y).trans (if_pos ⟨hx, hy⟩)⟩

/-- 00CN with `N ≠ 0` passes the operand check and scrolls down (R300). -/
theorem exec_scd {n : Nibble} (hn : n ≠ 0#4) (s : State) : exec (.scd n) s = .next (s.scroll .down n.toNat) :=
  if_pos (bne_iff_ne.mpr hn)

/-- In low resolution the effective grid is 64 × 32 on both profiles (R40). -/
theorem effGrid_lores (c : Config) : c.effW false = 64 ∧ c.effH false = 32 := by
  cases h : c.profile <;> simp [Config.effW, Config.effH, h]

/-- Vip has one effective grid, whatever the mode (R40). -/
theorem effGrid_vip {c : Config} (h : c.profile = .vip) (m : Bool) : c.effW m = 64 ∧ c.effH m = 32 := by
  simp [Config.effW, Config.effH, h]

theorem effGrid_hires {c : Config} (h : c.profile = .sChip) : c.effW true = 128 ∧ c.effH true = 64 := by
  simp [Config.effW, Config.effH, h]

/-! ## The exit -/

/-- A step that leaves the machine halted ran 00FD: a machine that steps is not halted before, the two faults of the fetch do not
halt it, and no other instruction does (R139, R303). -/
theorem cpuStep_of_halted {s t : State} (h : cpuStep s = .next t) (ht : t.halted = true) : s.fault = none ∧
    t = { s.advance with halted := true, result := some { needsSync := false, exitRequested := true } } := by
  obtain ⟨hfault, hrunning, ⟨-, rfl⟩ | ⟨-, e, -, rfl⟩ | ⟨-, i, -, u, hu, rfl⟩⟩ := cpuStep_cases s t h
  · exact absurd (hrunning.symm.trans ht) Bool.false_ne_true
  · exact absurd (hrunning.symm.trans ht) Bool.false_ne_true
  · have hexit : i = .exit := by
      rw [finish_eq] at ht
      exact beq_iff_eq.mp ((exec_halted (s := s.advance) hrunning hu).symm.trans ht)
    subst hexit
    cases hu
    have hresult : stepResult s.cfg .exit = { needsSync := false, exitRequested := true } := by
      simp [stepResult, needsSync, syncSensitive]
    exact ⟨hfault, by rw [finish_of_none _ _ (by exact hfault), ← hresult]; rfl⟩

/-! ## The register files -/

/-- The list form of a write into a register file that its bytes fit. -/
theorem getElem?_setFrom {n : Nat} (v : Vector Byte n) {bs : List Byte} (hbs : bs.length ≤ n) (k : Nat) :
    (setFrom v 0 bs)[k]? = if k < bs.length then bs[k]? else v[k]? := by
  by_cases hk : k < n
  case pos =>
    rw [Vector.getElem?_eq_getElem hk, Vector.getElem?_eq_getElem hk, getElem_setFrom]
    by_cases hin : k < bs.length
    · rw [if_pos (by omega), if_pos hin, Nat.sub_zero, some_getD bs hin]
    · rw [if_neg (by omega), if_neg hin]
  case neg =>
    rw [if_neg (by omega), Vector.getElem?_eq_none (by omega), Vector.getElem?_eq_none (by omega)]

section
variable (s : State) {x : Reg}

theorem getElem?_v (k : Reg) : s.v[k.toNat]? = some (s.reg k) := Vector.getElem?_eq_getElem k.isLt

theorem getElem?_regsUpTo {k : Reg} (hk : k.toNat ≤ x.toNat) : (s.regsUpTo x)[k.toNat]? = some (s.reg k) := by
  rw [← some_getD _ (by rw [length_regsUpTo]; omega), getD_regsUpTo s hk]

theorem getElem?_rplUpTo {k : Nat} (hk : k ≤ x.toNat) : (s.rplUpTo x)[k]? = s.rpl[k]? := by
  simp [State.rplUpTo, Nat.lt_succ_of_le hk]

variable (hx : x.toNat ≤ 7)
include hx

theorem length_rplUpTo : (s.rplUpTo x).length = x.toNat + 1 := by
  simp [State.rplUpTo, Nat.lt_succ_of_le hx]

/-- The RPL slots that FX75 stores, and those it leaves (R307). -/
theorem getElem?_storeRpl (k : Nat) :
    (setFrom s.rpl 0 (s.regsUpTo x))[k]? = if k ≤ x.toNat then (s.regsUpTo x)[k]? else s.rpl[k]? := by
  rw [getElem?_setFrom _ (by rw [length_regsUpTo]; omega), length_regsUpTo]
  simp only [Nat.lt_succ_iff]

/-- The registers that FX85 loads, and those it leaves (R308). -/
theorem some_reg_loadRpl (k : Reg) : some (State.reg { s with v := setFrom s.v 0 (s.rplUpTo x) } k) =
    if k.toNat ≤ x.toNat then s.rpl[k.toNat]? else some (s.reg k) := by
  rw [← getElem?_v, getElem?_setFrom _ (by rw [length_rplUpTo s hx]; omega), length_rplUpTo s hx, getElem?_v]
  simp only [Nat.lt_succ_iff]
  exact ite_congr rfl (getElem?_rplUpTo s) fun _ => rfl

end

/-! ## The statements -/

/-- Settles O46: each scroll replaces the grid by that of its shifted pixels. -/
theorem scrollsShiftTheBackingGrid : Obligations.ScrollsShiftTheBackingGrid := by
  intro s n
  refine ⟨decodes_of_encode id rfl rfl, decodes_of_encode id rfl rfl, decodes_of_encode id rfl rfl,
    fun hn => exec_replacesGrid (exec_scd hn s), ?zero, exec_replacesGrid rfl, exec_replacesGrid rfl⟩
  case zero =>
    rintro rfl
    exact ⟨_, raise_eq .operand none s⟩

/-- Settles O48: both switches leave the blank grid, and the mode picks the effective one. -/
theorem resolutionSwitchClears : Obligations.ResolutionSwitchClears := by
  intro s
  refine ⟨decodes_of_encode id rfl rfl, decodes_of_encode id rfl rfl, ?low, ?high⟩
  case low => exact ⟨s.setMode false, rfl, rfl, pixel_blankGrid _ _, sized_blankGrid _ _, rfl, effGrid_lores s.cfg⟩
  case high =>
    exact ⟨s.setMode true, rfl, rfl, pixel_blankGrid _ _, sized_blankGrid _ _, rfl, fun h => effGrid_hires h,
      fun h => effGrid_vip h true⟩

/-- Settles O49: only 00FD leaves the machine halted, and a halted machine has no step. -/
theorem exitHalts : Obligations.ExitHalts := by
  refine ⟨decodes_of_encode id rfl rfl, fun s => rfl, fun s t hstep hhalted hinputs => ?_⟩
  obtain ⟨hfault, ht⟩ := cpuStep_of_halted (s := s.takeInputs) hstep hhalted
  obtain ⟨-, hno_step, -⟩ := faultedOrHaltedMachineHasNoStep
  have htfault : t.fault = none := by rw [ht]; exact hfault
  exact ⟨by rw [ht], hno_step t t (takeInputs_of_nil hinputs).symm htfault hhalted⟩

/-- Settles O50: past the operand check, each is a write of the slots up to `x` into a register file. -/
theorem rplTransfers : Obligations.RplTransfers := by
  intro s x
  refine ⟨decodes_of_encode id rfl rfl, decodes_of_encode id rfl rfl, fun hx => ⟨?store, ?load⟩,
    fun hgt => ⟨faultsWith_operand rfl hgt, faultsWith_operand rfl hgt⟩⟩
  case store =>
    refine ⟨_, operandCheck_of_le _ _ _ _ hx, fun k hk => ?stored, fun k hk => ?kept, rfl⟩
    case stored => exact (getElem?_storeRpl s hx k.toNat).trans ((if_pos hk).trans (getElem?_regsUpTo s hk))
    case kept => exact (getElem?_storeRpl s hx k).trans (if_neg (Nat.not_le.mpr hk))
  case load =>
    refine ⟨_, operandCheck_of_le _ _ _ _ hx, fun k hk => ?loaded, fun k hk => ?kept, rfl⟩
    case loaded => exact (some_reg_loadRpl s hx k).trans (if_pos hk)
    case kept => exact Option.some.inj ((some_reg_loadRpl s hx k).trans (if_neg (Nat.not_le.mpr hk)))

end Sys2Proof.Machine
end

section
/-! PROOF. The CHIP-8E family: O51 to O54 and O56. -/

namespace Sys2Proof.Machine

/-! ## The meanings on a machine with the family (R330) -/

section
variable {s : State} {p : C8E} (hp : s.cfg.c8e = some p) (x y : Reg)
include hp

theorem exec_c8eSks : exec (.c8eSks x y) s = .next { s with
    pc := if relHolds p.skipRel (s.reg x).toInt (s.reg y).toInt then s.pc + 2#12 else s.pc } :=
  (withC8E_of_some hp _).trans (congrArg _ (skipIf_eq s _))

theorem exec_c8eMul : exec (.c8eMul x y) s = .next (s.setRegFlag x
    (mulHalves p.mulVfHalf (s.reg x) (s.reg y)).1 (mulHalves p.mulVfHalf (s.reg x) (s.reg y)).2) :=
  withC8E_of_some hp _

theorem exec_c8eDiv_of_zero (hy : s.reg y = 0#8) : exec (.c8eDiv x y) s = raise .divZero none s :=
  (withC8E_of_some hp _).trans (if_pos hy)

theorem exec_c8eDiv_of_ne (hy : s.reg y ≠ 0#8) : exec (.c8eDiv x y) s = .next (s.setRegFlag x
    (divParts p.divResult (s.reg x) (s.reg y)).1 (divParts p.divResult (s.reg x) (s.reg y)).2) :=
  (withC8E_of_some hp _).trans (if_neg hy)

theorem exec_c8eBcd16 : exec (.c8eBcd16 x y) s = checked .data s.i.toNat 5 s
    (.next (s.storeBytes s.i.toNat (decimalDigits (bcdSource p.bcdSource s x y).toNat 5))) :=
  withC8E_of_some hp _

theorem exec_c8eOp6_of_signedSkip {op : C8EOp6} {rel : C8ERel} (hop : p.op6 = some op)
    (hm : op.meaning = .signedSkip rel) : exec (.c8eOp6 x y) s = .next { s with
      pc := if relHolds rel (s.reg x).toInt (s.reg y).toInt then s.pc + 2#12 else s.pc } := by
  rw [← skipIf_eq]
  exact (withC8E_of_some hp _).trans (by simp only [hop, hm])

theorem exec_c8eOp6_of_other {op : C8EOp6} (hop : p.op6 = some op) (hm : op.meaning = .other) :
    exec (.c8eOp6 x y) s = .next (State.skipIf
      { s with v := (Config.c8eOp6 s.v s.i x y).v, i := (Config.c8eOp6 s.v s.i x y).i }
      (Config.c8eOp6 s.v s.i x y).skip) :=
  (withC8E_of_some hp _).trans (by simp only [hop, hm])

end

/-! ## The operands -/

/-- The two's-complement value of a byte (R333). -/
theorem byte_toInt_eq (a : Byte) : a.toInt = if a.toNat ≥ 128 then (a.toNat : Int) - 256 else a.toNat := by
  rw [BitVec.toInt_eq_toNat_cond]
  split <;> split <;> omega

/-- The big-endian word of two bytes (R336). -/
theorem toNat_byte_append (a b : Byte) : (a ++ b).toNat = a.toNat * 256 + b.toNat := by
  rw [BitVec.toNat_append, ← Nat.shiftLeft_add_eq_or_of_lt b.isLt, Nat.shiftLeft_eq]

/-- Away from its last register, the third reading is the word of two neighbouring registers (R336). -/
theorem bcdSource_vxNext (s : State) {x : Reg} (hx : x.toNat ≤ 14) (y : Reg) :
    bcdSource .vxNext s x y = s.reg x ++ s.reg (x + 1#4) :=
  if_neg fun h => by simp [h] at hx

/-- Digit `k` of `n + 1` decimal digits, most significant first (R336). -/
theorem getD_decimalDigits (u : Nat) {k n : Nat} (hk : k ≤ n) :
    (decimalDigits u (n + 1)).getD k 0#8 = BitVec.ofNat 8 (u / 10 ^ (n - k) % 10) := by
  induction n generalizing k with
  | zero =>
    obtain rfl := Nat.le_zero.mp hk
    rfl
  | succ n ih =>
    cases k with
    | zero => rfl
    | succ k =>
      rw [decimalDigits, List.getD_cons_succ, ih (Nat.le_of_succ_le_succ hk), Nat.succ_sub_succ]

/-- A machine whose sixth encoding is empty has no word for the sixth operation (R338). -/
theorem decode_ne_c8eOp6 {cfg : Config} {p : C8E} (hp : cfg.c8e = some p) (hop : p.op6 = none) (w : Word) (x y : Reg) :
    decode cfg w ≠ .ok (.c8eOp6 x y) := by
  intro h
  rcases decode_cases h with hbase | ⟨-, q, hq, hc8e⟩
  · exact noC8E_decodeBase w _ hbase trivial
  · obtain rfl : p = q := Option.some.inj (hp.symm.trans hq)
    obtain ⟨op, hmem, -, heq⟩ := exists_op_of_decodeC8E hc8e
    rcases mem_c8eOps.mp hmem with rfl | rfl | rfl | rfl | rfl | ⟨op6, hsome, -⟩
    case inr.inr.inr.inr.inr => cases hop.symm.trans hsome
    all_goals cases heq

/-! ## The statements -/

/-- Settles O51: it is a skip under the machine's relation of the two's-complement values. -/
theorem c8eSignedSkip : Obligations.C8eSignedSkip := by
  intro s x y p a b hp ha hb
  rw [exec_c8eSks hp, byte_toInt_eq, byte_toInt_eq, ← ha, ← hb]
  refine ⟨fun h => ?_, fun h => ?_, fun h => ?_, fun h => ?_⟩ <;> simp [h, relHolds]

/-- Settles O52: it is one register write with a flag, of the halves in the machine's order. -/
theorem c8eMultiply : Obligations.C8eMultiply := by
  rintro s x y p _ hp rfl
  have hwrites := writesRegs_of_setRegFlag (exec_c8eMul hp x y)
  refine ⟨fun hhigh => ?high, fun hlow => ?low⟩
  case high => simpa only [hhigh, mulHalves] using hwrites
  case low => simpa only [hlow, mulHalves] using hwrites

/-- Settles O53: a divisor that is not 0 gives one register write with a flag, of the parts in the machine's order. -/
theorem c8eDivide : Obligations.C8eDivide := by
  intro s x y p hp
  have hwrites (hy : s.reg y ≠ 0#8) := writesRegs_of_setRegFlag (exec_c8eDiv_of_ne hp x y hy)
  refine ⟨fun hy hquot => ?quotRem, fun hy hrem => ?remQuot, fun hy => ⟨_, exec_c8eDiv_of_zero hp x y hy⟩⟩
  case quotRem => simpa only [hquot, divParts] using hwrites hy
  case remQuot => simpa only [hrem, divParts] using hwrites hy

/-- Settles O54: past the range check, it is a store of the five digits of the source. -/
theorem c8eBcdStore : Obligations.C8eBcdStore := by
  rintro s x y p hp ⟨hm, -⟩
  have hexec := exec_c8eBcd16 hp x y
  refine ⟨fun hlo hhi => ?stores, fun hout => faultsWith_memRange (n := 4) hexec hout⟩
  case stores =>
    refine ⟨_, (bcdSource p.bcdSource s x y).toNat, hexec.trans (checked_of_inside .data _ _ s _ hlo hhi),
      Nat.le_of_lt_succ (BitVec.isLt _), fun hsrc => ?vxVy, fun hsrc => ?vyVx, fun hsrc hx => ?vxNext, fun k hk => ?digit,
      fun a ha => byte_storeBytes_outside hm ha, rfl⟩
    case vxVy => rw [hsrc]; exact toNat_byte_append _ _
    case vyVx => rw [hsrc]; exact toNat_byte_append _ _
    case vxNext => rw [hsrc, bcdSource_vxNext s hx, toNat_byte_append]
    case digit =>
      rw [byte_storeBytes_inside hm (by rw [length_decimalDigits]; omega), getD_decimalDigits _ hk]

/-- Settles O56: each reading of the sixth operation has its meaning, and an empty encoding has no row. -/
theorem c8eSixthOperation : Obligations.C8eSixthOperation := by
  intro s x y p hp
  refine ⟨fun op rel hop hm => exec_c8eOp6_of_signedSkip hp x y hop hm, fun op hop hm => ?other,
    fun hop w => decode_ne_c8eOp6 hp hop w x y⟩
  case other =>
    refine ⟨_, exec_c8eOp6_of_other hp x y hop hm, ?pc, ?frame⟩
    case pc =>
      rw [skipIf_pc]
      exact (ite_eq_or_eq _ _ _).symm
    case frame => rw [skipIf_eq]

end Sys2Proof.Machine
end

section
/-! PROOF. Exceptions, timers and loads: O11, O38, O39 and O59. -/

namespace Sys2Proof.Machine

/-! ## The faulting step -/

/-- Every fault of the Cpu's step is taken in the state after the increment; only FETCH_RANGE has fetched no word (R133, R135,
R402, R403). -/
theorem cpuStep_faulted {s t : State} (h : cpuStep s = .next t) (ht : t.fault ≠ none) : ∃ code addr,
    t = s.advance.takeFault code (if code = .fetchRange then none else some (fetchWord s.advance)) addr ∧
      (addr = none ↔ code ≠ .memRange) := by
  obtain ⟨hs, -, ⟨-, rfl⟩ | ⟨-, e, -, rfl⟩ | ⟨-, i, -, u, hu, rfl⟩⟩ := cpuStep_cases s t h
  · exact ⟨.fetchRange, none, rfl, by decide⟩
  · exact ⟨.decode, none, rfl, by decide⟩
  · rw [finish_fault] at ht
    obtain ⟨code, addr, rfl, haddr, hcode⟩ := exec_faulted (s := s.advance) hu hs ht
    refine ⟨code, addr, ?_, haddr⟩
    rw [finish_of_fault i _ _ rfl, if_neg hcode]
    rfl

/-- Settles O11: the taking of a fault after the increment, in the state the host leaves. -/
theorem faultingStepIsPrecise : Obligations.FaultingStepIsPrecise := by
  intro s t h ht
  obtain ⟨code, addr, rfl, haddr⟩ := cpuStep_faulted h ht
  exact ⟨s.takeInputs, code, _, addr, rfl, rfl, fun hfetch => if_pos hfetch, fun hfetch => if_neg hfetch, haddr⟩

/-! ## The timers -/

/-- A timer just set counts down from its value; one set to 0 is idle and reads 0 (R420, R421). -/
theorem timerGet_timerSet (tick : Nat) (v : Byte) (t0 now : Nat) :
    (timerGet tick (timerSet v t0) now).2.toNat = v.toNat - elapsedTicks tick t0 now := by
  by_cases hv : v = 0#8
  · simp [timerSet, hv, timerGet_idle]
  · rw [timerSet, if_neg hv]
    exact timerGet_value tick v t0 now

/-- One capture never reads more at a later time (R424). -/
theorem timerGet_antitone (tick : Nat) (c : TimerCapture) {t1 t2 : Nat} (h : t1 ≤ t2) :
    (timerGet tick c t2).2.toNat ≤ (timerGet tick c t1).2.toNat := by
  cases c with
  | idle => exact le_rfl
  | running v t0 =>
    have hticks : elapsedTicks tick t0 t1 ≤ elapsedTicks tick t0 t2 := Nat.div_le_div_right (Nat.sub_le_sub_right h t0)
    simp only [timerGet_value]
    exact Nat.sub_le_sub_left hticks _

/-- Settles O39: a read that makes the timer idle reads 0, and the capture before it then reads 0 ever after. -/
theorem idleTransitionUnobservable : Obligations.IdleTransitionUnobservable := by
  intro tick c t1 t2 h
  rcases timerGet_capture tick c t1 with hkept | ⟨hidle, hzero⟩
  · rw [hkept]
  · have hle := timerGet_antitone tick c h
    rw [hzero] at hle
    rw [hidle, timerGet_idle]
    exact (BitVec.eq_of_toNat_eq (Nat.le_zero.mp hle)).symm

/-- Settles O38: 0, 1 and `v` ticks elapse at the three readings, and the last clause is the monotony of one capture. -/
theorem timerCountsDown : Obligations.TimerCountsDown := by
  intro tick v now htick
  refine ⟨BitVec.eq_of_toNat_eq ?now, fun _ => ?tick, BitVec.eq_of_toNat_eq ?zero, fun c t1 t2 h => ?later⟩
  case now => simp [timerGet_timerSet, elapsedTicks]
  case tick => simp [timerGet_timerSet, elapsedTicks, Nat.div_self htick]
  case zero => simp [timerGet_timerSet, elapsedTicks, Nat.mul_div_cancel _ htick]
  case later =>
    rw [idleTransitionUnobservable tick c t1 t2 h]
    exact timerGet_antitone tick c h

/-! ## Load and reload -/

section
variable {s : State}

theorem reload_of_empty (h : s.image.length = 0) : s.reload = .error .empty := if_pos h

theorem reload_of_tooLarge (h0 : s.image.length ≠ 0) (h : s.cfg.memSize < programBase + s.image.length) :
    s.reload = .error .tooLarge := (if_neg h0).trans (if_pos h)

theorem reload_of_fits (h0 : s.image.length ≠ 0) (h : programBase + s.image.length ≤ s.cfg.memSize) :
    s.reload = .ok s.reinit := (if_neg h0).trans (if_neg (Nat.not_lt.mpr h))

theorem byte_reinit_below {a : Nat} (h : a < programBase) : s.reinit.byte a = s.byte a := by rw [byte_reinit, if_pos h]

theorem byte_reinit_image {k : Nat} (h : k < s.image.length) : some (s.reinit.byte (programBase + k)) = s.image[k]? := by
  rw [byte_reinit, if_neg (Nat.not_lt.mpr (Nat.le_add_right _ _)), Nat.add_sub_cancel_left, some_getD _ h]

theorem byte_reinit_above {a : Nat} (h : programBase + s.image.length ≤ a) : s.reinit.byte a = 0#8 := by
  rw [byte_reinit, if_neg (by omega), List.getD_eq_default _ _ (by omega)]

end

/-- The image of a reload lies wholly at or above the program base, so a second reload replaces it by itself (R503). -/
theorem reloadMemory_reloadMemory (m : Memory) (image : List Byte) :
    reloadMemory (reloadMemory m image) image = reloadMemory m image := by
  have himage : (imageCells programBase image).filter (fun c => decide (c.1 < programBase)) = [] :=
    List.filter_eq_nil_iff.mpr fun c hc => by simpa using (mem_imageCells image _ c hc).1
  simp [reloadMemory, himage]

theorem reinit_reinit (s : State) : s.reinit.reinit = s.reinit :=
  congrArg (fun m => { s.reinit with mem := m }) (reloadMemory_reloadMemory s.mem s.image)

/-- A reload of a re-initialised machine changes nothing (R503). -/
theorem reload_reinit {s : State} (h0 : s.image.length ≠ 0) (h : programBase + s.image.length ≤ s.cfg.memSize) :
    s.reinit.reload = .ok s.reinit :=
  (reload_of_fits (s := s.reinit) h0 h).trans (congrArg Except.ok (reinit_reinit s))

/-- The host drops a load or reload that fails (R407). -/
theorem orKept_of_error {s : State} {r : Except LoadError State} {e : LoadError} (h : r = .error e) :
    r = .error e ∧ s.orKept r = s := ⟨h, congrArg s.orKept h⟩

/-- Settles O59: a load is a reload of the machine that stores the new image, and a failed one is dropped. -/
theorem loadReloadsTheImage : Obligations.LoadReloadsTheImage := by
  refine ⟨fun s rom => ?load, fun s => ⟨fun h0 => ?reloadEmpty, fun h0 h => ?reloadTooLarge, fun _ _ => rfl⟩⟩
  case load =>
    refine ⟨fun h0 => ?empty, fun h0 h => ?tooLarge, fun h0 h => ?fits⟩
    case empty => exact orKept_of_error (reload_of_empty (s := { s with image := rom }) h0)
    case tooLarge => exact orKept_of_error (reload_of_tooLarge (s := { s with image := rom }) h0 h)
    case fits =>
      have hload : s.load rom = .ok (State.reinit { s with image := rom }) := reload_of_fits h0 h
      exact ⟨_, hload, congrArg s.orKept hload, rfl, reload_reinit (s := { s with image := rom }) h0 h,
        fun x => Vector.getElem_replicate _, rfl, rfl, rfl, rfl, rfl, fun a ha => byte_reinit_below ha,
        fun k hk => byte_reinit_image hk, fun a ha => byte_reinit_above ha,
        rfl, rfl, rfl, rfl, rfl, rfl, rfl, rfl, rfl, rfl⟩
  case reloadEmpty => exact orKept_of_error (reload_of_empty h0)
  case reloadTooLarge => exact orKept_of_error (reload_of_tooLarge h0 h)

end Sys2Proof.Machine
end

section
/-! PROOF. Construction and reset: O14. -/

namespace Sys2Proof.Machine

/-- The spec's defaults and the choices of log 2 are a configuration of the spec; a proof rests on this and not on the tests,
which check it too. -/
theorem valid_configDefault : Config.default.Valid where
  validated := by decide
  layout := by decide
  encodings := by rintro p ⟨⟩

/-- Construction leaves memory, stack and image empty, the program region at the program base, both timers idle, and no fault
and no step result (R500). Only the configuration can fail the invariant. -/
theorem inv_powerOn {c : Config} (h : c.Valid) : (State.powerOn c).Inv where
  cfg := h
  mem := Memory.wf_nil c.initByte c.memSize
  sp := Nat.zero_le c.stackMax
  progLo := Nat.le_refl programBase
  progHi := programBase_le_memSize c
  image := programBase_le_memSize c
  grid := sized_blankGrid c.backW c.backH
  dt := trivial
  st := trivial
  fault := by rintro r ⟨⟩
  halted := by rintro r ⟨⟩

/-- Settles O14: reset is construction from the default configuration. -/
theorem invariantHoldsAtPowerOn : Obligations.InvariantHoldsAtPowerOn :=
  ⟨fun _ h => inv_powerOn h, inv_powerOn valid_configDefault⟩

end Sys2Proof.Machine
end
